-- ==== Sys2Proof/Word.lean ====
section
/-! DEFINITION. The words of the block: the wire byte and the 16-bit word. -/

namespace Sys2Proof

/-- A wire byte, an operand byte or an 8-bit register: 8 bits (00_scope.md R8, R10 `u8`). -/
abbrev Byte := BitVec 8

/-- A CRC value, or a word fed to the CRC: 16 bits (00_scope.md R8, R10 `u16`). -/
abbrev Word := BitVec 16

/-- An operation word as the host delivers it: one 16-bit value (30_encoding.md R41, 20_memory.md R31). -/
abbrev OpWord := BitVec 16

end Sys2Proof
end

