-- ==== Sys2Proof/Config.lean ====
section
/-! DEFINITION. What is fixed when the block is built: the sizes of 00_scope.md R8, the two readings of the CRC
loop's end (R7), and the form in which the command catalogue (R6) is given. The value the model takes for the CRC
parameter is `Machine.pCrcOddTail` (Machine/Crc.lean); the catalogue is the field `catalogue` of the state. -/

namespace Sys2Proof

/-- The parameter `P_CRC_ODD_TAIL` of 00_scope.md R7: how the crc16 loop ends on an odd input of 3 or more bytes. -/
inductive CrcOddTail where
  /-- HALF_WORD: the last byte, padded with a zero low byte, is the last word fed. The value the spec takes. -/
  | halfWord
  /-- HALF_WORD_THEN_ZERO_WORD: one more all-zero word is fed after it. -/
  | halfWordThenZeroWord
deriving DecidableEq, Repr

/-- The command catalogue behind `P_KNOWN_CMD` (00_scope.md R6): `none` when the block is built without a catalogue
(the default of R6 then applies), otherwise the catalogued command bytes. -/
abbrev Catalogue := Option (List Byte)

/-- RXBUF and TXBUF hold 255 bytes each, indices 0 to 254 (00_scope.md R8, 20_memory.md R28). -/
abbrev bufferBytes : Nat := 255

end Sys2Proof
end

