-- ==== Sys2Proof/Syntax.lean ====
section
/-! DEFINITION. The operations of the block: one constructor for each row of spec/opcode_table.json. -/

namespace Sys2Proof

/-- The sixteen selectors of RD_REG under the names of 30_encoding.md R44, in the order of 10_state.md R25. -/
inductive RegSel where
  | status | errcode | cfg | rxCmd | rxLen | rxCrcHi | rxCrcLo | calcHi
  | calcLo | wakeCnt | stxCnt | faultcode | encCmd | encLen | encWake | encStx
deriving DecidableEq, Repr

/-- The operations (30_encoding.md R43). ENC_SET has one constructor for each legal selector (R87). -/
inductive Instr where
  /-- NOP (43_control.md R93). -/
  | nop
  /-- RST (43_control.md R94). -/
  | rst
  /-- CRC_CLR (40_crc.md R61). -/
  | crcClr
  /-- CRC_BYTE d (40_crc.md R62). -/
  | crcByte (d : Byte)
  /-- CRC_READ (40_crc.md R63). -/
  | crcRead
  /-- CFG_WR d (43_control.md R95). -/
  | cfgWr (d : Byte)
  /-- FR_RESET (41_framer_decode.md R81). -/
  | frReset
  /-- FR_BYTE d (41_framer_decode.md R79). -/
  | frByte (d : Byte)
  /-- FR_END (41_framer_decode.md R80). -/
  | frEnd
  /-- RD_REG s (43_control.md R96). -/
  | rdReg (s : RegSel)
  /-- RD_DATA i (43_control.md R97). -/
  | rdData (i : Byte)
  /-- ENC_CLR (42_encoder.md R86). -/
  | encClr
  /-- ENC_SET CMD, d (42_encoder.md R87, selector 0). -/
  | encSetCmd (d : Byte)
  /-- ENC_SET WAKE, d (42_encoder.md R87, selector 1). -/
  | encSetWake (d : Byte)
  /-- ENC_SET STX, d (42_encoder.md R87, selector 2). -/
  | encSetStx (d : Byte)
  /-- ENC_SET CRC_HI, d (42_encoder.md R87, selector 3). -/
  | encSetCrcHi (d : Byte)
  /-- ENC_SET CRC_LO, d (42_encoder.md R87, selector 4). -/
  | encSetCrcLo (d : Byte)
  /-- ENC_SET CRC_AUTO (42_encoder.md R87, selector 5). -/
  | encSetCrcAuto
  /-- ENC_PUSH d (42_encoder.md R88). -/
  | encPush (d : Byte)
  /-- ENC_GO (42_encoder.md R89). -/
  | encGo
  /-- CLASSIFY c (43_control.md R92). -/
  | classify (c : Byte)
deriving DecidableEq, Repr

end Sys2Proof
end

