-- ==== Sys2Proof/WellFormed.lean ====
section
/-! DEFINITION. Which operations a legal word can carry. -/

namespace Sys2Proof

/-- A legal operand for the operation. Only RD_DATA excludes one: index 0xFF names no byte of RXBUF, and its word is
illegal (30_encoding.md R43, R48). Every other operand field admits all its values. -/
def Instr.wellFormed : Instr → Bool
  | .rdData i => i != 0xFF#8
  | .nop | .rst | .crcClr | .crcByte _ | .crcRead | .cfgWr _ | .frReset | .frByte _ | .frEnd | .rdReg _ | .encClr
  | .encSetCmd _ | .encSetWake _ | .encSetStx _ | .encSetCrcHi _ | .encSetCrcLo _ | .encSetCrcAuto | .encPush _
  | .encGo | .classify _ => true

end Sys2Proof
end

