-- ==== Sys2Proof/Decode.lean ====
section
/-! DEFINITION. The decoder of operation words, total on all 65,536 of them and rejecting by name, and the encoder
(30_encoding.md R41 to R48). -/

namespace Sys2Proof

/-- Why a word is illegal: one constructor for each case of 30_encoding.md R48, in its order. -/
inductive IllegalWord where
  /-- An operation without operands whose bits 11:0 are not zero. -/
  | operandBitsNotZero
  /-- An operation with IMM only whose SEL is not zero. -/
  | selNotZero
  /-- RD_REG with IMM not zero. -/
  | immNotZero
  /-- RD_DATA with SEL not zero or IMM = 0xFF. -/
  | rdDataOperand
  /-- ENC_SET with SEL of 6 or more, or SEL = 5 and IMM not zero. -/
  | encSetOperand
deriving DecidableEq, Repr

/-- What the decoder says of a word. -/
inductive Decoded where
  | legal (i : Instr)
  | illegal (why : IllegalWord)
deriving DecidableEq, Repr

/-- OP, bits 15:12 (R41). -/
def opField (w : OpWord) : BitVec 4 := w.extractLsb' 12 4

/-- SEL, bits 11:8 (R41, R42). -/
def selField (w : OpWord) : BitVec 4 := w.extractLsb' 8 4

/-- IMM, bits 7:0 (R41, R42). -/
def immField (w : OpWord) : Byte := w.extractLsb' 0 8

/-- The RD_REG selector of a number (10_state.md R25): all sixteen are defined. -/
def RegSel.ofBits (s : BitVec 4) : RegSel :=
  match s.toNat with
  | 0 => .status | 1 => .errcode | 2 => .cfg | 3 => .rxCmd
  | 4 => .rxLen | 5 => .rxCrcHi | 6 => .rxCrcLo | 7 => .calcHi
  | 8 => .calcLo | 9 => .wakeCnt | 10 => .stxCnt | 11 => .faultcode
  | 12 => .encCmd | 13 => .encLen | 14 => .encWake | _ => .encStx

/-- The number of an RD_REG selector (10_state.md R25). -/
def RegSel.toBits : RegSel → BitVec 4
  | .status => 0 | .errcode => 1 | .cfg => 2 | .rxCmd => 3
  | .rxLen => 4 | .rxCrcHi => 5 | .rxCrcLo => 6 | .calcHi => 7
  | .calcLo => 8 | .wakeCnt => 9 | .stxCnt => 10 | .faultcode => 11
  | .encCmd => 12 | .encLen => 13 | .encWake => 14 | .encStx => 15

/-- An operation without operands: legal when bits 11:0 are zero (R48, first case). -/
def exactWord (w : OpWord) (i : Instr) : Decoded :=
  if selField w = 0 ∧ immField w = 0 then .legal i else .illegal .operandBitsNotZero

/-- An operation with IMM only: legal when SEL is zero (R48, second case). -/
def immWord (w : OpWord) (mk : Byte → Instr) : Decoded :=
  if selField w = 0 then .legal (mk (immField w)) else .illegal .selNotZero

/-- RD_REG: legal when IMM is zero (R48, third case). -/
def rdRegWord (w : OpWord) : Decoded :=
  if immField w = 0 then .legal (.rdReg (.ofBits (selField w))) else .illegal .immNotZero

/-- RD_DATA: legal when SEL is zero and the index is not 0xFF (R48, fourth case). -/
def rdDataWord (w : OpWord) : Decoded :=
  if selField w = 0 ∧ immField w ≠ 0xFF#8 then .legal (.rdData (immField w)) else .illegal .rdDataOperand

/-- ENC_SET: selectors 0 to 4 with any IMM, selector 5 with IMM zero (R48, fifth case; R87). -/
def encSetWord (w : OpWord) : Decoded :=
  match (selField w).toNat with
  | 0 => .legal (.encSetCmd (immField w))
  | 1 => .legal (.encSetWake (immField w))
  | 2 => .legal (.encSetStx (immField w))
  | 3 => .legal (.encSetCrcHi (immField w))
  | 4 => .legal (.encSetCrcLo (immField w))
  | 5 => if immField w = 0 then .legal .encSetCrcAuto else .illegal .encSetOperand
  | _ => .illegal .encSetOperand

/-- The decoder: the operation map of R43 with the legality conditions of R48. -/
def decode (w : OpWord) : Decoded :=
  match (opField w).toNat with
  | 0x0 => exactWord w .nop
  | 0x1 => exactWord w .rst
  | 0x2 => exactWord w .crcClr
  | 0x3 => immWord w .crcByte
  | 0x4 => exactWord w .crcRead
  | 0x5 => immWord w .cfgWr
  | 0x6 => exactWord w .frReset
  | 0x7 => immWord w .frByte
  | 0x8 => exactWord w .frEnd
  | 0x9 => rdRegWord w
  | 0xA => rdDataWord w
  | 0xB => exactWord w .encClr
  | 0xC => encSetWord w
  | 0xD => immWord w .encPush
  | 0xE => exactWord w .encGo
  | _ => immWord w .classify

/-- A word from its three fields (R41). -/
def makeWord (op sel : BitVec 4) (imm : Byte) : OpWord :=
  op.setWidth 16 <<< 12 ||| sel.setWidth 16 <<< 8 ||| imm.setWidth 16

/-- The encoder: the word of an operation, from the patterns of R43 and the selectors of R87 and 10_state.md R25. -/
def encode : Instr → OpWord
  | .nop => makeWord 0x0 0 0
  | .rst => makeWord 0x1 0 0
  | .crcClr => makeWord 0x2 0 0
  | .crcByte d => makeWord 0x3 0 d
  | .crcRead => makeWord 0x4 0 0
  | .cfgWr d => makeWord 0x5 0 d
  | .frReset => makeWord 0x6 0 0
  | .frByte d => makeWord 0x7 0 d
  | .frEnd => makeWord 0x8 0 0
  | .rdReg s => makeWord 0x9 s.toBits 0
  | .rdData i => makeWord 0xA 0 i
  | .encClr => makeWord 0xB 0 0
  | .encSetCmd d => makeWord 0xC 0 d
  | .encSetWake d => makeWord 0xC 1 d
  | .encSetStx d => makeWord 0xC 2 d
  | .encSetCrcHi d => makeWord 0xC 3 d
  | .encSetCrcLo d => makeWord 0xC 4 d
  | .encSetCrcAuto => makeWord 0xC 5 0
  | .encPush d => makeWord 0xD 0 d
  | .encGo => makeWord 0xE 0 0
  | .classify c => makeWord 0xF 0 c

/-- The operation a table row's word decodes to. The bits of an operation word that the table does not give are zero;
an operation of more than 16 bits does not exist (R41 "No other operation length or format exists"). -/
def decodeTableWord (nbits w : Nat) : Option Instr :=
  if nbits ≤ 16 then
    match decode (BitVec.ofNat 16 (w % 2 ^ nbits)) with
    | .legal i => some i
    | .illegal _ => none
  else none

end Sys2Proof
end

