-- ==== Sys2Proof/Machine/State.lean ====
section
/-! DEFINITION. The state of the block: the tuple (BLK, CU, FD, EN) of 10_state.md R13 with every element of the table
of R14, the three fields the model adds (the words issued and not yet performed, the responses given, the catalogue
parameter), the state after reset (70_reset_and_hazards.md R120), and the reasons a step can stop. -/

namespace Sys2Proof.Machine

open Sys2Proof

/-- A payload buffer (20_memory.md R28): index and byte pairs, indices strictly rising, no pair with the byte 0x00,
which is what an unlisted index reads as (70_reset_and_hazards.md R120: "all 0x00"). Log 7. -/
abbrev Memory := List Host.Cell

/-- The listed indices are at least `lo`, strictly rising and below 255, and no listed byte is 0x00. -/
def Memory.wfFrom (lo : Nat) : Memory → Bool
  | [] => true
  | (a, v) :: rest => decide (lo ≤ a) && decide (a < bufferBytes) && (v != 0#8) && Memory.wfFrom (a + 1) rest

/-- The canonical form of a payload buffer. -/
def Memory.wf (m : Memory) : Bool := Memory.wfFrom 0 m

/-- The phases of a CRC engine (10_state.md R22); the values 5 to 7 are not representable (93_implementation_defined.md
U7, log 9). -/
inductive Phase where
  | e0 | e1 | e2 | eOdd | eEven
deriving DecidableEq, Repr

/-- A CRC engine state `(ph, acc, hold)` (10_state.md R22). -/
structure Engine where
  /-- How many bytes have been fed, as far as the engine tells them apart. -/
  ph : Phase
  /-- The accumulator `num` of the checksum loop. -/
  acc : Word
  /-- The pending unpaired byte. -/
  hold : Byte
deriving DecidableEq, Repr

/-- The engine before any byte: (E0, 0x0000, 0x00). -/
def Engine.clear : Engine := { ph := .e0, acc := 0, hold := 0 }

/-- The decoder states (10_state.md R16); the values 11 to 15 are not representable (93_implementation_defined.md U6,
log 9). -/
inductive FdState where
  | wakeup | stx | cmd | len | data | crcHi | crcLo | etx | done | hunt | discard
deriving DecidableEq, Repr

/-- The error codes of 60_exceptions.md R101, by name. Their numbers are `ErrCode.code` (Machine/Ops.lean). -/
inductive ErrCode where
  | none | stxMissing | cmdLegacy | cmdUnknown | crc | etx | extraData | truncated
  | encCrc | encOverflow | encStx0 | illegalOp | faulted
deriving DecidableEq, Repr

/-- The classes of 60_exceptions.md R102. -/
inductive ErrClass where
  | framing | crc | value | unsupported | programmer
deriving DecidableEq, Repr

/-- What an operation answers (00_scope.md R12). -/
inductive Response where
  /-- NONE. -/
  | none
  /-- BYTE(u8). -/
  | byte (b : Byte)
  /-- WORD(u16). -/
  | word (w : Word)
  /-- FRAME_OK. -/
  | frameOk
  /-- ERR(code), with the 8-bit code of 60_exceptions.md R101. -/
  | err (code : Byte)
  /-- BYTES(seq). -/
  | bytes (seq : List Byte)
deriving DecidableEq, Repr

/-- BLK, the block-wide control (10_state.md R13, R18, R21). -/
structure Blk where
  /-- CFG. -/
  cfg : Byte
  /-- FAULT. -/
  fault : Bool
  /-- FAULTCODE. -/
  faultcode : Byte
deriving DecidableEq, Repr

/-- FD, the frame decoder with its payload buffer RXBUF (10_state.md R13, R14, R23). -/
structure Fd where
  /-- FD.state. -/
  state : FdState
  /-- FD.inframe. -/
  inframe : Bool
  /-- FD.wake_cnt. -/
  wakeCnt : Byte
  /-- FD.stx_cnt. -/
  stxCnt : Byte
  /-- FD.cmd. -/
  cmd : Byte
  /-- FD.len. -/
  len : Byte
  /-- FD.data_cnt. -/
  dataCnt : Byte
  /-- RXBUF. -/
  rxbuf : Memory
  /-- FD.crc_rx. -/
  crcRx : Word
  /-- FD.crc_calc. -/
  crcCalc : Word
  /-- FD.eng. -/
  eng : Engine
  /-- FD.frame_valid. -/
  frameValid : Bool
  /-- FD.errcode. -/
  errcode : Byte
deriving DecidableEq, Repr

/-- EN, the frame encoder with its payload buffer TXBUF (10_state.md R13, R14, R24). -/
structure En where
  /-- EN.cmd. -/
  cmd : Byte
  /-- EN.len. -/
  len : Byte
  /-- TXBUF. -/
  txbuf : Memory
  /-- EN.wake. -/
  wake : Byte
  /-- EN.stx. -/
  stx : Byte
  /-- EN.crc_x. -/
  crcX : Word
  /-- EN.crc_v. -/
  crcV : Bool
deriving DecidableEq, Repr

/-- BLK after reset (70_reset_and_hazards.md R120). -/
def Blk.reset : Blk := { cfg := 0x07, fault := false, faultcode := 0x00 }

/-- FD after reset, FR_RESET, or a CFG_WR that changes BUFMODE (70_reset_and_hazards.md R120, R121). -/
def Fd.reset : Fd :=
  { state := .wakeup, inframe := false, wakeCnt := 0, stxCnt := 0, cmd := 0x00, len := 0, dataCnt := 0, rxbuf := []
    crcRx := 0x0000, crcCalc := 0x0000, eng := .clear, frameValid := false, errcode := 0x00 }

/-- EN after reset or ENC_CLR (70_reset_and_hazards.md R120, 42_encoder.md R86). -/
def En.reset : En :=
  { cmd := 0x00, len := 0, txbuf := [], wake := 0x01, stx := 0x01, crcX := 0x0000, crcV := false }

/-- The machine. The first four fields are the spec's state (10_state.md R13); the last three are the model's own. -/
structure State where
  /-- BLK. -/
  blk : Blk
  /-- CU, the standalone CRC unit. -/
  cu : Engine
  /-- FD. -/
  fd : Fd
  /-- EN. -/
  en : En
  /-- The parameter P_KNOWN_CMD (00_scope.md R6): fixed when the block is built, written by no operation. Log 3. -/
  catalogue : Catalogue
  /-- The operation words the host has issued and the block has not performed, oldest first (00_scope.md R5). Log 1. -/
  issued : List OpWord
  /-- The responses given so far, newest first (00_scope.md R5, R12). Log 2. -/
  responses : List Response
deriving DecidableEq, Repr

/-- The machine right after power-up (70_reset_and_hazards.md R120, R121), with no catalogue given (00_scope.md R6), no
word issued and no response given. -/
def State.reset : State :=
  { blk := .reset, cu := .clear, fd := .reset, en := .reset, catalogue := Option.none, issued := [], responses := [] }

/-- The reasons the machine stops with a fault. -/
inductive Fault where
  /-- Raised by FR_BYTE in state DATA when FD.data_cnt is 255: it would write RXBUF[255], and "Index 255 names no byte
  of either space" (20_memory.md R28). Safe; no run from reset gets there (20_memory.md R29). Log 6. -/
  | noSuchBufferByte
deriving DecidableEq, Repr

/-- The reasons the machine refuses. -/
inductive Refusal where
  /-- Raised by exec for an operation that has no meaning in the model yet; no arm uses it. Safe. -/
  | notModelled (mnemonic : String)
  /-- Raised by FR_END in whole-buffer mode when FD.state is CMD, a state that no operation leaves behind: 41_framer_decode.md
  R80 has no case for it, and 93_implementation_defined.md U8 says "refuse as a starting state". Safe. Log 5. -/
  | cmdBetweenOperations
deriving DecidableEq, Repr

end Sys2Proof.Machine
end

