-- ==== Sys2Proof/Machine/Ops.lean ====
section
/-! DEFINITION. The operations the meanings share: bytes and words, the payload buffers, responding, the FAULT gate, the
start of a frame, and the two error actions of 60_exceptions.md (the block's form of taking an exception, R103 and R104;
there is no return from one, R111). -/

namespace Sys2Proof.Machine

open Sys2Proof

/-- What every operation answers. -/
abbrev StepResult := Host.Outcome State Fault Refusal

/-! ## Bytes and words (00_scope.md R10) -/

/-- `hi8(w) = w[15:8]`. -/
def hi8 (w : Word) : Byte := w.extractLsb' 8 8

/-- `lo8(w) = w[7:0]`. -/
def lo8 (w : Word) : Byte := w.extractLsb' 0 8

/-- `be16(h, l) = 256·h + l`. -/
def be16 (h l : Byte) : Word := h.setWidth 16 <<< 8 ||| l.setWidth 16

/-- `sat_inc8(n) = min(n + 1, 255)`. -/
def satInc8 (n : Byte) : Byte := if n = 0xFF#8 then 0xFF#8 else n + 1

/-- The wakeup marker (00_scope.md R9). -/
abbrev wakeupByte : Byte := 0xFF#8

/-- The STX marker (00_scope.md R9). -/
abbrev stxByte : Byte := 0x02#8

/-- The ETX marker (00_scope.md R9). -/
abbrev etxByte : Byte := 0x03#8

/-! ## The payload buffers (20_memory.md R29) -/

/-- `MemRead(SPACE, i, 1)`: the byte at an index; 0x00 where nothing is listed (70_reset_and_hazards.md R120). -/
def Memory.read : Memory → Nat → Byte
  | [], _ => 0x00#8
  | (a, v) :: rest, i => if a = i then v else Memory.read rest i

/-- A pair in front of a list, left out when its byte is what an unlisted index reads as. -/
def Memory.put (i : Nat) (v : Byte) (rest : Memory) : Memory := if v = 0x00#8 then rest else (i, v) :: rest

/-- `MemWrite(SPACE, i, 1, v)`: sets one byte and changes no other; the canonical form is kept. -/
def Memory.write : Memory → Nat → Byte → Memory
  | [], i, v => Memory.put i v []
  | (a, x) :: rest, i, v =>
    if i < a then Memory.put i v ((a, x) :: rest)
    else if i = a then Memory.put i v rest
    else (a, x) :: Memory.write rest i v

/-- `SPACE[0..n−1]`: the first n bytes, in index order. -/
def Memory.firstBytes (m : Memory) (n : Nat) : List Byte := (List.range n).map m.read

/-! ## Error codes (60_exceptions.md R101, R102) -/

/-- The number of an error code. -/
def ErrCode.code : ErrCode → Byte
  | .none => 0x00#8
  | .stxMissing => 0x01#8
  | .cmdLegacy => 0x02#8
  | .cmdUnknown => 0x03#8
  | .crc => 0x04#8
  | .etx => 0x05#8
  | .extraData => 0x06#8
  | .truncated => 0x07#8
  | .encCrc => 0x08#8
  | .encOverflow => 0x09#8
  | .encStx0 => 0x0A#8
  | .illegalOp => 0x0B#8
  | .faulted => 0x0C#8

/-- The class of an error code; NONE and E_FAULTED have none. -/
def ErrCode.errClass : ErrCode → Option ErrClass
  | .none | .faulted => Option.none
  | .stxMissing | .etx | .extraData | .truncated => some .framing
  | .cmdLegacy => some .unsupported
  | .cmdUnknown => some .value
  | .crc | .encCrc => some .crc
  | .encOverflow | .encStx0 | .illegalOp => some .programmer

/-- `ERR(code)`. -/
def errResponse (e : ErrCode) : Response := .err e.code

/-! ## Responding and the FAULT gate -/

/-- `respond(r)`: the operation's one response (00_scope.md R11). -/
def State.respond (s : State) (r : Response) : State := { s with responses := r :: s.responses }

/-- The operation ends here with response r. -/
def answer (s : State) (r : Response) : StepResult := .next (s.respond r)

/-- The FAULT gate (60_exceptions.md R106, R108): while FAULT is 1 the operation answers ERR(E_FAULTED) and changes no
state; otherwise it is performed. -/
def unlessFaulted (s : State) (performed : StepResult) : StepResult :=
  if s.blk.fault then answer s (errResponse .faulted) else performed

/-- The programmer-error action `ProgError(code)` (60_exceptions.md R104): the first one is recorded in FAULT and
FAULTCODE, and the operation answers ERR(code). -/
def progError (e : ErrCode) (s : State) : StepResult :=
  answer { s with blk := if s.blk.fault then s.blk else { s.blk with fault := true, faultcode := e.code } } (errResponse e)

/-! ## Configuration bits (10_state.md R18) -/

/-- CFG.VERIFY. -/
def verifyOn (cfg : Byte) : Bool := cfg.getLsbD 0

/-- CFG.BUFMODE: true for whole-buffer decode, false for streaming. -/
def bufMode (cfg : Byte) : Bool := cfg.getLsbD 1

/-- CFG.ENC_VERIFY. -/
def encVerifyOn (cfg : Byte) : Bool := cfg.getLsbD 2

/-! ## Command classification (43_control.md R91, 00_scope.md R6) -/

/-- `is_extended(c)`: at least 0x80 and not 0xC4. -/
def isExtended (c : Byte) : Bool := decide (0x80 ≤ c.toNat) && (c != 0xC4#8)

/-- `P_KNOWN_CMD(c)`: without a catalogue it is `is_extended`; with one, an extended byte that is catalogued. -/
def knownCmd (k : Catalogue) (c : Byte) : Bool :=
  isExtended c && match k with
    | Option.none => true
    | some known => known.contains c

/-! ## Start of frame and resynchronisation (41_framer_decode.md R64 to R66) -/

/-- A byte that can begin a frame: 0xFF or 0x02 (R66, 93_implementation_defined.md U5). -/
def isMarker (b : Byte) : Bool := b == wakeupByte || b == stxByte

/-- SOF, the start of a frame (R64): RXBUF and FD.errcode stay. -/
def Fd.sof (fd : Fd) : Fd :=
  { fd with
    wakeCnt := 0, stxCnt := 0, cmd := 0x00, len := 0, dataCnt := 0, crcRx := 0x0000, crcCalc := 0x0000
    eng := .clear, frameValid := false, inframe := true }

/-- `if FD.inframe = 0: SOF()`. -/
def Fd.openFrame (fd : Fd) : Fd := if fd.inframe then fd else fd.sof

/-- What WAKEUP does with one of its two markers (R65): a wakeup byte is counted, an STX byte is the STX state's first.
Any other byte is no marker. -/
def Fd.takeMarker (fd : Fd) (b : Byte) : Option Fd :=
  if b = wakeupByte then some { fd with wakeCnt := satInc8 fd.wakeCnt }
  else if b = stxByte then some { fd with stxCnt := 1, state := .stx }
  else Option.none

/-- HUNT (R66): a marker starts a new frame in WAKEUP; every other byte is discarded. Its response is NONE. -/
def Fd.hunt (fd : Fd) (b : Byte) : Fd :=
  let opened := Fd.openFrame { fd with state := .wakeup, inframe := false }
  (opened.takeMarker b).getD fd

/-- The decoder error action `DecodeError(code, b, rx)` (60_exceptions.md R103). -/
def Fd.decodeError (cfg : Byte) (e : ErrCode) (b : Byte) (rx : Bool) (fd : Fd) : Fd × Response :=
  let recorded := { fd with errcode := e.code, frameValid := false }
  if bufMode cfg then ({ recorded with state := .discard }, errResponse e)
  else
    let hunting := { recorded with state := .hunt, inframe := false }
    (if rx && isMarker b then hunting.hunt b else hunting, errResponse e)

end Sys2Proof.Machine
end

