-- ==== Sys2Proof/Machine/Flags.lean ====
section
/-! DEFINITION. STATUS, the one flag register (10_state.md R19, 43_control.md R96), the numbers of the decoder states
(10_state.md R16), and CFG as it is written and read (10_state.md R18). -/

namespace Sys2Proof.Machine

open Sys2Proof

/-- The 4-bit number of a decoder state (10_state.md R16). -/
def FdState.number : FdState → BitVec 4
  | .wakeup => 0 | .stx => 1 | .cmd => 2 | .len => 3 | .data => 4 | .crcHi => 5
  | .crcLo => 6 | .etx => 7 | .done => 8 | .hunt => 9 | .discard => 10

/-- A flag as a byte, 0 or 1. -/
def flagByte (f : Bool) : Byte := (BitVec.ofBool f).setWidth 8

/-- STATUS (43_control.md R96): the state number in bits 3:0, FRAME_VALID, FAULT, ENC_CRCV and INFRAME in bits 4 to 7. -/
def State.status (s : State) : Byte :=
  s.fd.state.number.setWidth 8 ||| flagByte s.fd.frameValid <<< 4 ||| flagByte s.blk.fault <<< 5
    ||| flagByte s.en.crcV <<< 6 ||| flagByte s.fd.inframe <<< 7

/-- What CFG holds after a write of d: bits 7:3 are ignored (43_control.md R95). -/
def cfgWritten (d : Byte) : Byte := d &&& 0x07

/-- What CFG reads as: the reserved bits read 0 (10_state.md R18, R25). -/
def cfgRead (cfg : Byte) : Byte := cfg &&& 0x07

end Sys2Proof.Machine
end

