-- ==== Sys2Proof/Machine/Operands.lean ====
section
/-! DEFINITION. The operand forms: the register an RD_REG selector names (10_state.md R25) and the three ways a buffer
index is formed (43_control.md R98). -/

namespace Sys2Proof.Machine

open Sys2Proof

/-- `reg(s)`: the register a selector reads (10_state.md R25, 43_control.md R96). -/
def State.reg (s : State) : RegSel → Byte
  | .status => s.status
  | .errcode => s.fd.errcode
  | .cfg => cfgRead s.blk.cfg
  | .rxCmd => s.fd.cmd
  | .rxLen => s.fd.len
  | .rxCrcHi => hi8 s.fd.crcRx
  | .rxCrcLo => lo8 s.fd.crcRx
  | .calcHi => hi8 s.fd.crcCalc
  | .calcLo => lo8 s.fd.crcCalc
  | .wakeCnt => s.fd.wakeCnt
  | .stxCnt => s.fd.stxCnt
  | .faultcode => s.blk.faultcode
  | .encCmd => s.en.cmd
  | .encLen => s.en.len
  | .encWake => s.en.wake
  | .encStx => s.en.stx

/-- The absolute index of RD_DATA: `ea = zext_8(w[7:0])`. -/
def rdDataIndex (i : Byte) : Nat := i.toNat

/-- The implicit index of the DATA state: `ea = FD.data_cnt`, before the increment. -/
def Fd.rxIndex (fd : Fd) : Nat := fd.dataCnt.toNat

/-- The implicit index of ENC_PUSH: `ea = EN.len`, before the increment. -/
def En.txIndex (en : En) : Nat := en.len.toNat

end Sys2Proof.Machine
end

