-- ==== Sys2Proof/Machine/Control.lean ====
section
/-! DEFINITION. Control, read-back and classification (43_control.md): the meanings of NOP, RST, CFG_WR, RD_REG, RD_DATA
and CLASSIFY, and what an illegal word does (60_exceptions.md R105). -/

namespace Sys2Proof.Machine

open Sys2Proof

/-- NOP (R93): allowed under FAULT. -/
def execNop (s : State) : StepResult := answer s .none

/-- The reset action on a running machine (70_reset_and_hazards.md R120): every element of BLK, CU, FD and EN. The
catalogue is a parameter, and the issued words and the responses are the host's side; they stay (log 11). -/
def State.resetAction (s : State) : State := { s with blk := .reset, cu := .clear, fd := .reset, en := .reset }

/-- RST (R94): allowed under FAULT, and the only way out of it. -/
def execRst (s : State) : StepResult := answer s.resetAction .none

/-- CFG_WR d (R95): a change of BUFMODE resets the decoder as FR_RESET does. -/
def execCfgWr (d : Byte) (s : State) : StepResult :=
  unlessFaulted s
    (answer
      { s with
        blk := { s.blk with cfg := cfgWritten d }
        fd := if bufMode s.blk.cfg = bufMode (cfgWritten d) then s.fd else .reset }
      .none)

/-- RD_REG s (R96): allowed under FAULT. -/
def execRdReg (r : RegSel) (s : State) : StepResult := answer s (.byte (s.reg r))

/-- An illegal operation: `ProgError(E_ILLEGAL_OP)` and nothing else (60_exceptions.md R105). -/
def illegalOp (s : State) : StepResult := progError .illegalOp s

/-- RD_DATA i (R97): allowed under FAULT; the index is not checked against FD.len. Index 0xFF is illegal (no word
decodes to it; log 12). -/
def execRdData (i : Byte) (s : State) : StepResult :=
  if i = 0xFF#8 then illegalOp s else answer s (.byte (s.fd.rxbuf.read (rdDataIndex i)))

/-- CLASSIFY c (R92): is_extended in bit 0, P_KNOWN_CMD in bit 1. -/
def execClassify (c : Byte) (s : State) : StepResult :=
  unlessFaulted s (answer s (.byte (flagByte (isExtended c) ||| flagByte (knownCmd s.catalogue c) <<< 1)))

end Sys2Proof.Machine
end

