-- ==== Sys2Proof/Machine/Crc.lean ====
section
/-! DEFINITION. The CRC-16 engine (40_crc.md): the reference function, the byte-at-a-time engine, and the meanings of
CRC_CLR, CRC_BYTE and CRC_READ. -/

namespace Sys2Proof.Machine

open Sys2Proof

/-- The value of P_CRC_ODD_TAIL (00_scope.md R7): "The value this spec takes is HALF_WORD". Log 4. -/
def pCrcOddTail : CrcOddTail := .halfWord

/-- The generator constant 0x8005 (00_scope.md R8). -/
abbrev crcPoly : Word := 0x8005#16

/-- One turn of the inner loop of 40_crc.md R53: the top bit is tested before the shift, the word's top bit is added
after it, and the tested bit decides the exclusive-or. -/
def crcBit (acc : Word) (bit : Bool) : Word :=
  let shifted := acc <<< 1
  let fed := if bit then shifted + 1 else shifted
  if acc.msb then fed ^^^ crcPoly else fed

/-- n turns of the loop, taking the word's bits from its top. -/
def crcTurns : Nat → Word → Word → Word
  | 0, acc, _ => acc
  | n + 1, acc, w => crcTurns n (crcBit acc w.msb) (w <<< 1)

/-- `crcstep(acc, w)` (R53). -/
def crcstep (acc w : Word) : Word := crcTurns 16 acc w

/-- The while loop of R54 from index i with accumulator num, for at most `fuel` turns (i grows by 2 or more in each, so
L + 1 turns are enough). -/
def crc16Loop (tail : CrcOddTail) (b : List Byte) : Nat → Nat → Word → Word
  | 0, _, num => num
  | fuel + 1, i, num =>
    if i ≤ b.length + 2 then
      if i < b.length then
        crc16Loop tail b fuel (i + 2) (crcstep num (be16 (b.getD (i - 1) 0) (b.getD i 0)))
      else if i = b.length then
        let advance := match tail with
          | .halfWord => 2
          | .halfWordThenZeroWord => 1
        crc16Loop tail b fuel (i + advance + 1) (crcstep num (be16 (b.getD (i - 1) 0) 0))
      else crc16Loop tail b fuel (i + 3) (crcstep num 0x0000)
    else num

/-- `crc16` under a given reading of the loop's end (R54, 90_conflicts.md C3). -/
def crc16With (tail : CrcOddTail) (b : List Byte) : Word :=
  if b.length < 2 then 0x0000
  else
    let seed := be16 (b.getD 0 0) (b.getD 1 0)
    if b.length > 2 then crc16Loop tail b (b.length + 1) 3 seed else seed

/-- `crc16(b)`, the reference checksum (R54). -/
def crc16 (b : List Byte) : Word := crc16With pCrcOddTail b

/-- `eng_feed` (R58). -/
def engFeed (e : Engine) (b : Byte) : Engine :=
  match e.ph with
  | .e0 => { ph := .e1, acc := 0x0000, hold := b }
  | .e1 => { ph := .e2, acc := be16 e.hold b, hold := 0x00 }
  | .e2 => { ph := .eOdd, acc := e.acc, hold := b }
  | .eOdd => { ph := .eEven, acc := crcstep e.acc (be16 e.hold b), hold := 0x00 }
  | .eEven => { ph := .eOdd, acc := e.acc, hold := b }

/-- `eng_final` under a given reading of the loop's end (R59; R7 for the other reading). -/
def engFinalWith (tail : CrcOddTail) (e : Engine) : Word :=
  match e.ph with
  | .e0 | .e1 => 0x0000
  | .e2 => e.acc
  | .eOdd =>
    let half := crcstep e.acc (be16 e.hold 0x00)
    match tail with
    | .halfWord => half
    | .halfWordThenZeroWord => crcstep half 0x0000
  | .eEven => crcstep e.acc 0x0000

/-- `eng_final` (R59). -/
def engFinal (e : Engine) : Word := engFinalWith pCrcOddTail e

/-- The engine after a sequence of bytes from clear (R60). -/
def engFeedAll (b : List Byte) : Engine := b.foldl engFeed .clear

/-- CRC_CLR (R61). -/
def execCrcClr (s : State) : StepResult :=
  unlessFaulted s (answer { s with cu := .clear } .none)

/-- CRC_BYTE d (R62). -/
def execCrcByte (d : Byte) (s : State) : StepResult :=
  unlessFaulted s (answer { s with cu := engFeed s.cu d } .none)

/-- CRC_READ (R63). -/
def execCrcRead (s : State) : StepResult :=
  unlessFaulted s (answer s (.word (engFinal s.cu)))

end Sys2Proof.Machine
end

