-- ==== Sys2Proof/Machine/Encoder.lean ====
section
/-! DEFINITION. The frame encoder (42_encoder.md): the meanings of ENC_CLR, ENC_SET, ENC_PUSH and ENC_GO. -/

namespace Sys2Proof.Machine

open Sys2Proof

/-- An encoder input is set and the operation answers NONE. -/
def finishEn (s : State) (en : En) : StepResult := answer { s with en := en } .none

/-- ENC_CLR (R86). -/
def execEncClr (s : State) : StepResult := unlessFaulted s (finishEn s .reset)

/-- ENC_SET CMD, d (R87): the command byte is not checked here. -/
def execEncSetCmd (d : Byte) (s : State) : StepResult := unlessFaulted s (finishEn s { s.en with cmd := d })

/-- ENC_SET WAKE, d (R87): 0 to 255 wakeup bytes. -/
def execEncSetWake (d : Byte) (s : State) : StepResult := unlessFaulted s (finishEn s { s.en with wake := d })

/-- ENC_SET STX, d (R87): a count of 0 is the programmer error E_ENC_STX0. -/
def execEncSetStx (d : Byte) (s : State) : StepResult :=
  unlessFaulted s (if d = 0 then progError .encStx0 s else finishEn s { s.en with stx := d })

/-- ENC_SET CRC_HI, d (R87): `EN.crc_x[15:8] <- d; EN.crc_v <- 1`. -/
def execEncSetCrcHi (d : Byte) (s : State) : StepResult :=
  unlessFaulted s (finishEn s { s.en with crcX := be16 d (lo8 s.en.crcX), crcV := true })

/-- ENC_SET CRC_LO, d (R87): `EN.crc_x[7:0] <- d; EN.crc_v <- 1`. -/
def execEncSetCrcLo (d : Byte) (s : State) : StepResult :=
  unlessFaulted s (finishEn s { s.en with crcX := be16 (hi8 s.en.crcX) d, crcV := true })

/-- ENC_SET CRC_AUTO (R87): `EN.crc_v <- 0`; EN.crc_x is kept. -/
def execEncSetCrcAuto (s : State) : StepResult := unlessFaulted s (finishEn s { s.en with crcV := false })

/-- ENC_PUSH d (R88): the 256th byte is the programmer error E_ENC_OVERFLOW. -/
def execEncPush (d : Byte) (s : State) : StepResult :=
  unlessFaulted s
    (if s.en.len = 0xFF#8 then progError .encOverflow s
     else finishEn s { s.en with txbuf := s.en.txbuf.write s.en.txIndex d, len := s.en.len + 1 })

/-- The CRC-covered span CMD ‖ LEN ‖ DATA of the encoder's inputs (R89, 30_encoding.md R46). -/
def En.span (en : En) : List Byte := en.cmd :: en.len :: en.txbuf.firstBytes en.len.toNat

/-- A wire frame: wakeup bytes, STX bytes, the span, the CRC big-endian, ETX (30_encoding.md R45, 20_memory.md R30). -/
def wireFrame (wake stx : Byte) (span : List Byte) (crc : Word) : List Byte :=
  List.replicate wake.toNat wakeupByte ++ List.replicate stx.toNat stxByte ++ span ++ [hi8 crc, lo8 crc, etxByte]

/-- What ENC_GO answers (R89): the three checks in order, then the frame. -/
def En.goResponse (cfg : Byte) (k : Catalogue) (en : En) : Response :=
  if !isExtended en.cmd then errResponse .cmdLegacy
  else if !knownCmd k en.cmd then errResponse .cmdUnknown
  else
    let computed := crc16 en.span
    if en.crcV && encVerifyOn cfg && en.crcX != computed then errResponse .encCrc
    else .bytes (wireFrame en.wake en.stx en.span (if en.crcV then en.crcX else computed))

/-- ENC_GO (R89, 60_exceptions.md R107): no state changes. -/
def execEncGo (s : State) : StepResult :=
  unlessFaulted s (answer s (s.en.goResponse s.blk.cfg s.catalogue))

end Sys2Proof.Machine
end

