-- ==== Sys2Proof/Machine/Framer.lean ====
section
/-! DEFINITION. The frame decoder (41_framer_decode.md): the action of each state on one byte, and the meanings of
FR_BYTE, FR_END and FR_RESET. -/

namespace Sys2Proof.Machine

open Sys2Proof

/-- WAKEUP(b) (R65). -/
def Fd.onWakeup (cfg : Byte) (fd : Fd) (b : Byte) : Fd × Response :=
  match fd.openFrame.takeMarker b with
  | some taken => (taken, .none)
  | Option.none => fd.openFrame.decodeError cfg .stxMissing b false

/-- HUNT(b) (R66). -/
def Fd.onHunt (fd : Fd) (b : Byte) : Fd × Response := (fd.hunt b, .none)

/-- CMD(b) (R69, R70, R71). -/
def Fd.onCmd (cfg : Byte) (k : Catalogue) (fd : Fd) (b : Byte) : Fd × Response :=
  if !isExtended b then fd.decodeError cfg .cmdLegacy b true
  else if !knownCmd k b then fd.decodeError cfg .cmdUnknown b true
  else ({ fd with cmd := b, eng := engFeed fd.eng b, state := .len }, .none)

/-- STX(b) (R67, R68): the first byte that is not 0x02 is the command byte, handled in the same operation. -/
def Fd.onStx (cfg : Byte) (k : Catalogue) (fd : Fd) (b : Byte) : Fd × Response :=
  if b = stxByte then ({ fd with stxCnt := satInc8 fd.stxCnt }, .none)
  else Fd.onCmd cfg k { fd with state := .cmd } b

/-- LEN(b) (R72). -/
def Fd.onLen (fd : Fd) (b : Byte) : Fd × Response :=
  ({ fd with len := b, eng := engFeed fd.eng b, dataCnt := 0, state := if b = 0 then .crcHi else .data }, .none)

/-- DATA(b) (R73). -/
def Fd.onData (fd : Fd) (b : Byte) : Fd × Response :=
  ({ fd with
      rxbuf := fd.rxbuf.write fd.rxIndex b
      eng := engFeed fd.eng b
      dataCnt := fd.dataCnt + 1
      state := if fd.dataCnt + 1 = fd.len then .crcHi else .data }, .none)

/-- CRC_HI(b) (R74): `FD.crc_rx[15:8] <- b`. -/
def Fd.onCrcHi (fd : Fd) (b : Byte) : Fd × Response :=
  ({ fd with crcRx := be16 b (lo8 fd.crcRx), state := .crcLo }, .none)

/-- CRC_LO(b) (R75): `FD.crc_rx[7:0] <- b`, the computed CRC is latched, and the two are compared under VERIFY. -/
def Fd.onCrcLo (cfg : Byte) (fd : Fd) (b : Byte) : Fd × Response :=
  let latched := { fd with crcRx := be16 (hi8 fd.crcRx) b, crcCalc := engFinal fd.eng }
  if verifyOn cfg && latched.crcRx != latched.crcCalc then latched.decodeError cfg .crc b false
  else ({ latched with state := .etx }, .none)

/-- ETX(b) (R76). -/
def Fd.onEtx (cfg : Byte) (fd : Fd) (b : Byte) : Fd × Response :=
  if b ≠ etxByte then fd.decodeError cfg .etx b true
  else if bufMode cfg then ({ fd with state := .done }, .none)
  else ({ fd with frameValid := true, inframe := false, state := .wakeup }, .frameOk)

/-- DONE(b) (R77). -/
def Fd.onDone (cfg : Byte) (fd : Fd) (b : Byte) : Fd × Response := fd.decodeError cfg .extraData b false

/-- DISCARD(b) (R78). -/
def Fd.onDiscard (fd : Fd) (_b : Byte) : Fd × Response := (fd, .none)

/-- One received byte through the state machine (R79). -/
def Fd.onByte (cfg : Byte) (k : Catalogue) (fd : Fd) (b : Byte) : Fd × Response :=
  match fd.state with
  | .wakeup => fd.onWakeup cfg b
  | .hunt => fd.onHunt b
  | .stx => fd.onStx cfg k b
  | .cmd => fd.onCmd cfg k b
  | .len => fd.onLen b
  | .data => fd.onData b
  | .crcHi => fd.onCrcHi b
  | .crcLo => fd.onCrcLo cfg b
  | .etx => fd.onEtx cfg b
  | .done => fd.onDone cfg b
  | .discard => fd.onDiscard b

/-- The DATA state would form index 255, which names no byte of RXBUF (20_memory.md R28, R29). No run gets there. Log 6. -/
def Fd.indexOutside (fd : Fd) : Bool := fd.state == .data && !decide (fd.rxIndex < bufferBytes)

/-- The decoder's unit and response put back into the machine. -/
def finishFd (s : State) (out : Fd × Response) : StepResult := answer { s with fd := out.1 } out.2

/-- FR_BYTE d (R79). -/
def execFrByte (d : Byte) (s : State) : StepResult :=
  unlessFaulted s
    (if s.fd.indexOutside then .fault .noSuchBufferByte
     else finishFd s (s.fd.onByte s.blk.cfg s.catalogue d))

/-- What the end of a whole buffer records and answers in each state (R80); CMD has no case (log 5). -/
def Fd.bufferEnd (fd : Fd) : Option (Fd × Response) :=
  match fd.state with
  | .wakeup | .hunt =>
    some ({ fd.openFrame with errcode := ErrCode.stxMissing.code, frameValid := false }, errResponse .stxMissing)
  | .done => some ({ fd with frameValid := true }, .frameOk)
  | .discard => some (fd, .err fd.errcode)
  | .stx | .len | .data | .crcHi | .crcLo | .etx =>
    some ({ fd with errcode := ErrCode.truncated.code, frameValid := false }, errResponse .truncated)
  | .cmd => Option.none

/-- FR_END (R80): nothing in stream mode; in whole-buffer mode the buffer's one outcome, and the decoder is ready for
the next buffer. -/
def execFrEnd (s : State) : StepResult :=
  unlessFaulted s
    (if bufMode s.blk.cfg then
       match s.fd.bufferEnd with
       | some (fd, r) => finishFd s ({ fd with state := .wakeup, inframe := false }, r)
       | Option.none => .refused .cmdBetweenOperations
     else answer s .none)

/-- FR_RESET (R81). -/
def execFrReset (s : State) : StepResult :=
  unlessFaulted s (finishFd s (.reset, .none))

end Sys2Proof.Machine
end

