-- ==== Sys2Proof/Machine/Dispatch.lean ====
section
/-! DEFINITION. One arm for each operation. -/

namespace Sys2Proof.Machine

open Sys2Proof

def exec (i : Instr) (s : State) : Host.Outcome State Fault Refusal :=
  match i with
  | .nop => Sys2Proof.Machine.execNop s
  | .rst => Sys2Proof.Machine.execRst s
  | .crcClr => Sys2Proof.Machine.execCrcClr s
  | .crcByte d => Sys2Proof.Machine.execCrcByte d s
  | .crcRead => Sys2Proof.Machine.execCrcRead s
  | .cfgWr d => Sys2Proof.Machine.execCfgWr d s
  | .frReset => Sys2Proof.Machine.execFrReset s
  | .frByte d => Sys2Proof.Machine.execFrByte d s
  | .frEnd => Sys2Proof.Machine.execFrEnd s
  | .rdReg r => Sys2Proof.Machine.execRdReg r s
  | .rdData d => Sys2Proof.Machine.execRdData d s
  | .encClr => Sys2Proof.Machine.execEncClr s
  | .encSetCmd d => Sys2Proof.Machine.execEncSetCmd d s
  | .encSetWake d => Sys2Proof.Machine.execEncSetWake d s
  | .encSetStx d => Sys2Proof.Machine.execEncSetStx d s
  | .encSetCrcHi d => Sys2Proof.Machine.execEncSetCrcHi d s
  | .encSetCrcLo d => Sys2Proof.Machine.execEncSetCrcLo d s
  | .encSetCrcAuto => Sys2Proof.Machine.execEncSetCrcAuto s
  | .encPush d => Sys2Proof.Machine.execEncPush d s
  | .encGo => Sys2Proof.Machine.execEncGo s
  | .classify c => Sys2Proof.Machine.execClassify c s

end Sys2Proof.Machine
end

