-- ==== Sys2Proof/Machine/Perform.lean ====
section
/-! DEFINITION. Performing operation words: one word in the order of checks of 60_exceptions.md R108, the words the host
has issued, and a sequence of operations. -/

namespace Sys2Proof.Machine

open Sys2Proof

/-- `step(w)` of 60_exceptions.md R108: an illegal word is a programmer error before every other check; otherwise the
operation is performed behind its FAULT gate. -/
def perform (w : OpWord) (s : State) : StepResult :=
  match decode w with
  | .legal i => exec i s
  | .illegal _ => illegalOp s

/-- The oldest issued word is taken and performed; with none issued the block is "idle between operations and holds all
its state" (60_exceptions.md R119). Log 1. -/
def performIssued (s : State) : StepResult :=
  match s.issued with
  | [] => .next s
  | w :: rest => perform w { s with issued := rest }

/-- The host issues words, to be performed before those already issued. -/
def State.issue (s : State) (ws : List OpWord) : State := { s with issued := ws ++ s.issued }

/-- A sequence of operations performed one after another (20_memory.md R36), up to the first stop. -/
def execAll : List Instr → State → StepResult
  | [], s => .next s
  | i :: rest, s =>
    match exec i s with
    | .next t => execAll rest t
    | .fault f => .fault f
    | .refused r => .refused r

end Sys2Proof.Machine
end

