-- ==== Sys2Proof/Machine/Step.lean ====
section
/-! DEFINITION. One step of the machine. -/

namespace Sys2Proof.Machine

open Sys2Proof

/-- One step: the block performs the next operation word the host has issued (00_scope.md R5). -/
def step (s : State) : Host.Outcome State Fault Refusal := performIssued s

/-- k steps, up to the first stop. -/
def runSteps : Nat → State → Host.Outcome State Fault Refusal
  | 0, s => .next s
  | k + 1, s =>
    match step s with
    | .next t => runSteps k t
    | .fault f => .fault f
    | .refused r => .refused r

/-- The state in which the given word is the next one the block performs (log 8). -/
def State.withFetchWord (s : State) (nbits w : Nat) : State := s.issue [BitVec.ofNat 16 (w % 2 ^ nbits)]

end Sys2Proof.Machine
end

