-- ==== Sys2Proof/Machine/Pseudo.lean ====
section
/-! DEFINITION. The pseudo-operations of 30_encoding.md R52: host-side macros, of which the block sees only the expanded
operations. -/

namespace Sys2Proof.Machine

open Sys2Proof

/-- `CRC16 b0, …, bn−1`. -/
def crc16Ops (b : List Byte) : List Instr := .crcClr :: (b.map .crcByte ++ [.crcRead])

/-- `DECODE b0, …, bn−1`, for whole-buffer mode. -/
def decodeOps (b : List Byte) : List Instr := b.map .frByte ++ [.frEnd]

/-- The lines of `ENCODE cmd, [p0, …, pn−1], w, t` that load the encoder: the WAKE and STX lines are left out when the
count is 1. -/
def encodeInputs (cmd : Byte) (payload : List Byte) (w t : Byte) : List Instr :=
  .encClr :: .encSetCmd cmd ::
    ((if w = 1 then [] else [.encSetWake w]) ++ (if t = 1 then [] else [.encSetStx t]) ++ payload.map .encPush)

/-- `ENCODE cmd, [p0, …, pn−1], w, t`. -/
def encodeOps (cmd : Byte) (payload : List Byte) (w t : Byte) : List Instr :=
  encodeInputs cmd payload w t ++ [.encGo]

/-- `ENCODE_CRC cmd, [p…], crc`, with the counts of ENCODE. -/
def encodeCrcOps (cmd : Byte) (payload : List Byte) (w t : Byte) (crc : Word) : List Instr :=
  encodeInputs cmd payload w t ++ [.encSetCrcHi (hi8 crc), .encSetCrcLo (lo8 crc), .encGo]

end Sys2Proof.Machine
end

