-- ==== Sys2Proof/Safety.lean ====
section
/-! DEFINITION. The terms claims are stated in: what a legal word is, what an illegal word and a gated operation answer,
the words a checksum feeds, and the invariant of the states a run passes through. -/

namespace Sys2Proof.Machine

open Sys2Proof

/-! ## Words -/

/-- A word is illegal: the five cases of 30_encoding.md R48 (OP is bits 15:12, SEL bits 11:8, IMM bits 7:0). -/
def IllegalByTable (w : OpWord) : Prop :=
  let op := (w >>> 12).toNat
  let sel := ((w >>> 8) &&& 0xF).toNat
  let imm := (w &&& 0xFF).toNat
  (op ∈ [0x0, 0x1, 0x2, 0x4, 0x6, 0x8, 0xB, 0xE] ∧ w &&& 0x0FFF ≠ 0)
  ∨ (op ∈ [0x3, 0x5, 0x7, 0xD, 0xF] ∧ sel ≠ 0)
  ∨ (op = 0x9 ∧ imm ≠ 0)
  ∨ (op = 0xA ∧ (sel ≠ 0 ∨ imm = 0xFF))
  ∨ (op = 0xC ∧ (sel ≥ 6 ∨ (sel = 5 ∧ imm ≠ 0)))

/-- The state after a programmer error with this code (60_exceptions.md R104): FAULT and FAULTCODE record the first one,
and nothing else changes. -/
def State.afterProgError (s : State) (code : Byte) : State :=
  { s with
    blk := if s.blk.fault then s.blk else { cfg := s.blk.cfg, fault := true, faultcode := code }
    responses := .err code :: s.responses }

/-- The word answers ERR(E_ILLEGAL_OP) as a programmer error and does nothing else (60_exceptions.md R105). -/
def RaisesIllegalOp (w : OpWord) (s : State) : Prop := perform w s = .next (s.afterProgError 0x0B)

/-- Under FAULT the operation answers ERR(E_FAULTED) and changes no state (60_exceptions.md R106). -/
def RefusedUnderFault (i : Instr) (s : State) : Prop :=
  s.blk.fault = true → exec i s = .next { s with responses := .err 0x0C :: s.responses }

/-- The operation has the one word w, and every other word with its OP is illegal (30_encoding.md R48, first case). -/
def EncodedExactly (i : Instr) (w : OpWord) : Prop :=
  decode w = .legal i ∧ ∀ (v : OpWord) (s : State), v >>> 12 = w >>> 12 → v ≠ w → RaisesIllegalOp v s

/-- The operation has the words w | d, and every word with its OP and a SEL that is not zero is illegal (30_encoding.md
R48, second case). -/
def EncodedWithImm (mk : Byte → Instr) (w : OpWord) : Prop :=
  (∀ d, decode (w ||| d.setWidth 16) = .legal (mk d))
    ∧ ∀ (v : OpWord) (s : State), v >>> 12 = w >>> 12 → (v >>> 8) &&& 0xF ≠ 0 → RaisesIllegalOp v s

/-! ## Command bytes -/

/-- An extended command byte (43_control.md R91). -/
def Extended (c : Byte) : Prop := 0x80 ≤ c.toNat ∧ c ≠ 0xC4

/-- A command byte of the catalogue (00_scope.md R6): any extended byte when no catalogue is given. -/
def Known (k : Catalogue) (c : Byte) : Prop := Extended c ∧ ∀ l, k = some l → c ∈ l

/-! ## The decoder's registers after a start of frame and after an error -/

/-- The registers SOF leaves (41_framer_decode.md R64). -/
def Fd.afterSof (fd : Fd) : Fd :=
  { state := fd.state, inframe := true, wakeCnt := 0, stxCnt := 0, cmd := 0, len := 0, dataCnt := 0, rxbuf := fd.rxbuf
    crcRx := 0, crcCalc := 0, eng := { ph := .e0, acc := 0, hold := 0 }, frameValid := false, errcode := fd.errcode }

/-- The registers of the frame in progress: those after SOF where no frame is in progress. -/
def Fd.inProgress (fd : Fd) : Fd := if fd.inframe then fd else fd.afterSof

/-- The registers after the decoder error action on byte b (60_exceptions.md R103); rx says whether b may start the next
frame. -/
def Fd.afterError (fd : Fd) (buffer : Bool) (code b : Byte) (rx : Bool) : Fd :=
  if buffer then { fd with errcode := code, frameValid := false, state := .discard }
  else if rx ∧ b = 0xFF then { fd.afterSof with errcode := code, state := .wakeup, wakeCnt := 1 }
  else if rx ∧ b = 0x02 then { fd.afterSof with errcode := code, state := .stx, stxCnt := 1 }
  else { fd with errcode := code, frameValid := false, state := .hunt, inframe := false }

/-- All of FD at its reset values (10_state.md R14). -/
def Fd.cleared : Fd :=
  { state := .wakeup, inframe := false, wakeCnt := 0, stxCnt := 0, cmd := 0, len := 0, dataCnt := 0, rxbuf := []
    crcRx := 0, crcCalc := 0, eng := { ph := .e0, acc := 0, hold := 0 }, frameValid := false, errcode := 0 }

/-! ## Checksums -/

/-- The complete pairs of a byte string as big-endian words. -/
def pairWords : List Byte → List Word
  | x :: y :: rest => be16 x y :: pairWords rest
  | _ => []

/-- The words fed after the seed for the bytes after the second one (40_crc.md R55): the pairs, then a zero word when
the count is even, or the last byte with a zero low byte when it is odd. -/
def wordsAfterSeed : List Byte → List Word
  | [] => [0x0000]
  | [x] => [be16 x 0x00]
  | x :: y :: rest => be16 x y :: wordsAfterSeed rest

/-- The bits of a byte string, each byte's bit 7 first (40_crc.md R56). -/
def byteBits (b : List Byte) : List Bool := b.flatMap fun x => (List.range 8).map x.getMsbD

/-- The bits of a word, bit 15 first. -/
def wordBits (w : Word) : List Bool := (List.range 16).map w.getMsbD

/-! ## The invariant -/

/-- The CRC-covered span of the frame in progress with its first n payload bytes (30_encoding.md R46). -/
def Fd.span (fd : Fd) (n : Nat) : List Byte := fd.cmd :: fd.len :: fd.rxbuf.firstBytes n

/-- The shape of an engine in each phase (10_state.md R22). -/
def Engine.Inv (e : Engine) : Prop :=
  match e.ph with
  | .e0 => e.acc = 0 ∧ e.hold = 0
  | .e1 => e.acc = 0
  | .e2 | .eEven => e.hold = 0
  | .eOdd => True

/-- What the decoder's engine and computed CRC hold in each state (41_framer_decode.md R82): the engine has been fed the
part of the span that has arrived, and after CRC_LO the computed CRC is that of the whole span. -/
def Fd.CrcTracksSpan (fd : Fd) : Prop :=
  match fd.state with
  | .wakeup => fd.inframe = true → fd.eng = .clear
  | .stx => fd.eng = .clear
  | .len => fd.eng = engFeedAll [fd.cmd]
  | .data => fd.eng = engFeedAll (fd.span fd.dataCnt.toNat)
  | .crcHi | .crcLo => fd.eng = engFeedAll (fd.span fd.len.toNat)
  | .etx | .done => fd.crcCalc = crc16 (fd.span fd.len.toNat)
  | .cmd | .hunt | .discard => True

/-- The states in which a command byte has been accepted. -/
def FdState.afterCmd (st : FdState) : Bool :=
  match st with
  | .len | .data | .crcHi | .crcLo | .etx | .done => true
  | .wakeup | .stx | .cmd | .hunt | .discard => false

/-- BLK: the reserved bits of CFG are 0 (10_state.md R18), and FAULTCODE is a programmer error's code exactly while FAULT
is 1 (10_state.md R21, 60_exceptions.md R101). -/
structure Blk.Inv (b : Blk) : Prop where
  reservedZero : b.cfg &&& 0xF8 = 0
  noFault : b.fault = false → b.faultcode = 0x00
  faultCode : b.fault = true → b.faultcode = 0x09 ∨ b.faultcode = 0x0A ∨ b.faultcode = 0x0B

/-- FD: what holds of the decoder between operations, for a given CFG and catalogue. -/
structure Fd.Inv (cfg : Byte) (k : Catalogue) (fd : Fd) : Prop where
  /-- "FD.state never holds CMD (2) between two operations" (10_state.md R17). -/
  notCmd : fd.state ≠ .cmd
  /-- RXBUF is in its canonical form. -/
  rxWf : fd.rxbuf.wf = true
  /-- HUNT belongs to streaming, outside a frame (41_framer_decode.md R66, 60_exceptions.md R103). -/
  huntStreams : fd.state = .hunt → bufMode cfg = false ∧ fd.inframe = false
  /-- DONE and DISCARD belong to whole-buffer decode (41_framer_decode.md R77, R78). -/
  bufferStates : fd.state = .done ∨ fd.state = .discard → bufMode cfg = true
  /-- Outside WAKEUP and HUNT a frame is in progress (10_state.md R19). -/
  inFrame : fd.state ≠ .wakeup → fd.state ≠ .hunt → fd.inframe = true
  /-- `FD.data_cnt < FD.len` in DATA (10_state.md R16, 20_memory.md R29). -/
  room : fd.state = .data → fd.dataCnt.toNat < fd.len.toNat
  /-- The engine's shape (10_state.md R22). -/
  engShape : fd.eng.Inv
  /-- The engine and the computed CRC follow the span (41_framer_decode.md R82). -/
  tracks : fd.CrcTracksSpan
  /-- An accepted command is known, and an STX came before it (41_framer_decode.md R67, R69). -/
  accepted : fd.state.afterCmd = true → knownCmd k fd.cmd = true ∧ fd.stxCnt ≠ 0
  /-- An STX has been counted in state STX (41_framer_decode.md R65). -/
  counted : fd.state = .stx → fd.stxCnt ≠ 0
  /-- A valid frame is complete and its registers describe it (10_state.md R23). -/
  valid : fd.frameValid = true →
    fd.state = .wakeup ∧ fd.inframe = false ∧ knownCmd k fd.cmd = true ∧ fd.stxCnt ≠ 0
      ∧ fd.crcCalc = crc16 (fd.span fd.len.toNat)
  /-- FD.errcode is one of the codes recorded there (60_exceptions.md R101), and DISCARD follows an error. -/
  errRange : fd.errcode.toNat ≤ 7
  discardErr : fd.state = .discard → fd.errcode ≠ 0x00

/-- EN: the STX count is at least 1 (42_encoder.md R87), and TXBUF is in canonical form and holds nothing at or beyond
EN.len (10_state.md R24). -/
structure En.Inv (en : En) : Prop where
  stxNonzero : en.stx ≠ 0
  txWf : en.txbuf.wf = true
  onlyPushed : ∀ i, en.len.toNat ≤ i → en.txbuf.read i = 0x00

/-- The invariant of the machine between operations. -/
structure State.Inv (s : State) : Prop where
  blk : s.blk.Inv
  cu : s.cu.Inv
  fd : s.fd.Inv s.blk.cfg s.catalogue
  en : s.en.Inv

/-- A safe step: it answers a next state, and the invariant holds there. -/
def SafeStep (s : State) : Prop := ∃ t, step s = .next t ∧ t.Inv

/-- The decoder waits for the first byte of a new buffer or frame. -/
def Fd.Fresh (fd : Fd) : Prop := fd.state = .wakeup ∧ fd.inframe = false ∧ fd.rxbuf.wf = true

end Sys2Proof.Machine
end

