-- ==== Sys2Proof/Certificates/Slice0/Obligations.lean ====
section
/-! DEFINITION. The statements of the model for the provers. Each docstring names the rule of spec/ it formalises. -/

open Sys2Proof Sys2Proof.Machine

/-! ## Reset, control and read-back -/

/-- 70_reset_and_hazards.md R120: every element has its listed value after reset; STATUS reads 0x00 and CRC_READ answers
0x0000. -/
def Obligations.ResetLeavesTheListedValues : Prop :=
  State.reset.blk.cfg = 0x07 ∧ State.reset.blk.fault = false ∧ State.reset.blk.faultcode = 0x00
  ∧ State.reset.cu.ph = .e0 ∧ State.reset.cu.acc = 0x0000 ∧ State.reset.cu.hold = 0x00
  ∧ State.reset.fd.state = .wakeup ∧ State.reset.fd.inframe = false
  ∧ State.reset.fd.wakeCnt = 0 ∧ State.reset.fd.stxCnt = 0 ∧ State.reset.fd.cmd = 0 ∧ State.reset.fd.len = 0
  ∧ State.reset.fd.dataCnt = 0 ∧ (∀ i, State.reset.fd.rxbuf.read i = 0x00)
  ∧ State.reset.fd.crcRx = 0x0000 ∧ State.reset.fd.crcCalc = 0x0000
  ∧ State.reset.fd.eng.ph = .e0 ∧ State.reset.fd.eng.acc = 0x0000 ∧ State.reset.fd.eng.hold = 0x00
  ∧ State.reset.fd.frameValid = false ∧ State.reset.fd.errcode = 0x00
  ∧ State.reset.en.cmd = 0x00 ∧ State.reset.en.len = 0 ∧ (∀ i, State.reset.en.txbuf.read i = 0x00)
  ∧ State.reset.en.wake = 0x01 ∧ State.reset.en.stx = 0x01
  ∧ State.reset.en.crcX = 0x0000 ∧ State.reset.en.crcV = false
  ∧ exec (.rdReg .status) State.reset = .next { State.reset with responses := [.byte 0x00] }
  ∧ exec .crcRead State.reset = .next { State.reset with responses := [.word 0x0000] }

/-- 43_control.md R93: NOP answers NONE and changes nothing, under FAULT too; the all-zero word is the only NOP. -/
def Obligations.NopAnswersNoneAndChangesNothing : Prop :=
  EncodedExactly .nop 0x0000
  ∧ ∀ s : State, exec .nop s = .next { s with responses := .none :: s.responses }

/-- 43_control.md R94: RST puts every element of BLK, CU, FD and EN at its reset value and answers NONE, under FAULT too.
(What it leaves of the model's own fields is stated in EachOperationRespondsExactlyOnce.) -/
def Obligations.RstPutsEveryElementAtItsResetValue : Prop :=
  EncodedExactly .rst 0x1000
  ∧ ∀ s : State, ∃ t, exec .rst s = .next t ∧ t.responses = .none :: s.responses
      ∧ t.blk = { cfg := 0x07, fault := false, faultcode := 0x00 }
      ∧ t.cu = { ph := .e0, acc := 0x0000, hold := 0x00 }
      ∧ t.fd = Fd.cleared
      ∧ t.en = { cmd := 0x00, len := 0, txbuf := [], wake := 0x01, stx := 0x01, crcX := 0x0000, crcV := false }
      ∧ t.status = 0x00

/-- 43_control.md R95: CFG takes d & 0x07, and FD is reset exactly when BUFMODE changes. -/
def Obligations.CfgWrWritesThreeBitsAndResetsTheDecoderOnAModeChange : Prop :=
  EncodedWithImm .cfgWr 0x5000
  ∧ ∀ (d : Byte) (s : State), (s.blk.fault = false → exec (.cfgWr d) s = .next
        { s with
          blk := { cfg := d &&& 0x07, fault := false, faultcode := s.blk.faultcode }
          fd := if s.blk.cfg.getLsbD 1 = d.getLsbD 1 then s.fd else Fd.cleared
          responses := .none :: s.responses })
      ∧ RefusedUnderFault (.cfgWr d) s

/-- 43_control.md R96 with 10_state.md R25, R19 and R16: each of the sixteen selectors answers its register, STATUS bit by
bit, under FAULT too, and nothing else changes; a word with IMM not zero is illegal. -/
def Obligations.RdRegAnswersTheSelectedRegister : Prop :=
  (∀ (v : OpWord) (s : State), v >>> 12 = 0x9 → v &&& 0xFF ≠ 0 → RaisesIllegalOp v s)
  ∧ [0x9000, 0x9100, 0x9200, 0x9300, 0x9400, 0x9500, 0x9600, 0x9700, 0x9800, 0x9900, 0x9A00, 0x9B00, 0x9C00, 0x9D00,
      0x9E00, 0x9F00].map decode
    = [RegSel.status, .errcode, .cfg, .rxCmd, .rxLen, .rxCrcHi, .rxCrcLo, .calcHi, .calcLo, .wakeCnt, .stxCnt,
        .faultcode, .encCmd, .encLen, .encWake, .encStx].map (fun r => Decoded.legal (.rdReg r))
  ∧ ∀ s : State, ∃ reg : RegSel → Byte,
      (∀ r, exec (.rdReg r) s = .next { s with responses := .byte (reg r) :: s.responses })
      ∧ (reg .status &&& 0x0F = match s.fd.state with
          | .wakeup => 0 | .stx => 1 | .cmd => 2 | .len => 3 | .data => 4 | .crcHi => 5 | .crcLo => 6 | .etx => 7
          | .done => 8 | .hunt => 9 | .discard => 10)
      ∧ (reg .status).getLsbD 4 = s.fd.frameValid ∧ (reg .status).getLsbD 5 = s.blk.fault
      ∧ (reg .status).getLsbD 6 = s.en.crcV ∧ (reg .status).getLsbD 7 = s.fd.inframe
      ∧ reg .errcode = s.fd.errcode ∧ reg .cfg = s.blk.cfg &&& 0x07
      ∧ reg .rxCmd = s.fd.cmd ∧ reg .rxLen = s.fd.len
      ∧ (reg .rxCrcHi).toNat = s.fd.crcRx.toNat / 256 ∧ (reg .rxCrcLo).toNat = s.fd.crcRx.toNat % 256
      ∧ (reg .calcHi).toNat = s.fd.crcCalc.toNat / 256 ∧ (reg .calcLo).toNat = s.fd.crcCalc.toNat % 256
      ∧ reg .wakeCnt = s.fd.wakeCnt ∧ reg .stxCnt = s.fd.stxCnt ∧ reg .faultcode = s.blk.faultcode
      ∧ reg .encCmd = s.en.cmd ∧ reg .encLen = s.en.len ∧ reg .encWake = s.en.wake ∧ reg .encStx = s.en.stx

/-- 43_control.md R97: RD_DATA answers RXBUF[i] for every index but 0xFF, under FAULT too, whatever FD.len is, and nothing
else changes; SEL not zero or index 0xFF is illegal. -/
def Obligations.RdDataAnswersTheIndexedByte : Prop :=
  (∀ i : Byte, i ≠ 0xFF → decode (0xA000 ||| i.setWidth 16) = .legal (.rdData i))
  ∧ (∀ (v : OpWord) (s : State), v >>> 12 = 0xA → ((v >>> 8) &&& 0xF ≠ 0 ∨ v &&& 0xFF = 0xFF) → RaisesIllegalOp v s)
  ∧ ∀ (i : Byte) (s : State), i ≠ 0xFF →
      exec (.rdData i) s = .next { s with responses := .byte (s.fd.rxbuf.read i.toNat) :: s.responses }

/-- 43_control.md R91 and R92: 127 bytes are extended; CLASSIFY answers 0x00 for a legacy byte, 0x01 for an extended byte
outside the catalogue and 0x03 for a catalogued byte, and no state changes. -/
def Obligations.ClassifyAnswersTheClassOfACommandByte : Prop :=
  EncodedWithImm .classify 0xF000
  ∧ ((List.range 256).filter (fun n => isExtended (BitVec.ofNat 8 n))).length = 127
  ∧ (∀ c, isExtended c = true ↔ 0x80 ≤ c.toNat ∧ c ≠ 0xC4)
  ∧ ∀ (c : Byte) (s : State), (s.blk.fault = false → ∃ r,
        exec (.classify c) s = .next { s with responses := .byte r :: s.responses }
        ∧ (¬ Extended c → r = 0x00) ∧ (Extended c → ¬ Known s.catalogue c → r = 0x01)
        ∧ (Known s.catalogue c → r = 0x03))
      ∧ RefusedUnderFault (.classify c) s

/-! ## The CRC unit -/

/-- 40_crc.md R61: CRC_CLR clears CU and changes nothing else. -/
def Obligations.CrcClrClearsTheUnit : Prop :=
  EncodedExactly .crcClr 0x2000
  ∧ ∀ s : State, (s.blk.fault = false → exec .crcClr s = .next
        { s with cu := { ph := .e0, acc := 0x0000, hold := 0x00 }, responses := .none :: s.responses })
      ∧ RefusedUnderFault .crcClr s

/-- 40_crc.md R62 with the table of R58: CRC_BYTE feeds one byte, phase by phase, and changes nothing else. -/
def Obligations.CrcByteFeedsOneByte : Prop :=
  EncodedWithImm .crcByte 0x3000
  ∧ ∀ (d : Byte) (s : State), (s.blk.fault = false → exec (.crcByte d) s = .next
        { s with
          cu := match s.cu with
            | { ph := .e0, acc := _, hold := _ } => { ph := .e1, acc := 0x0000, hold := d }
            | { ph := .e1, acc := _, hold := h } => { ph := .e2, acc := be16 h d, hold := 0x00 }
            | { ph := .e2, acc := a, hold := _ } => { ph := .eOdd, acc := a, hold := d }
            | { ph := .eOdd, acc := a, hold := h } => { ph := .eEven, acc := crcstep a (be16 h d), hold := 0x00 }
            | { ph := .eEven, acc := a, hold := _ } => { ph := .eOdd, acc := a, hold := d }
          responses := .none :: s.responses })
      ∧ RefusedUnderFault (.crcByte d) s

/-- 40_crc.md R63 with the table of R59: CRC_READ answers the checksum of the bytes fed, phase by phase, and no state
changes. -/
def Obligations.CrcReadAnswersTheChecksum : Prop :=
  EncodedExactly .crcRead 0x4000
  ∧ ∀ s : State, (s.blk.fault = false → exec .crcRead s = .next
        { s with
          responses := .word (match s.cu with
            | { ph := .e0, acc := _, hold := _ } => 0x0000
            | { ph := .e1, acc := _, hold := _ } => 0x0000
            | { ph := .e2, acc := a, hold := _ } => a
            | { ph := .eOdd, acc := a, hold := h } => crcstep a (be16 h 0x00)
            | { ph := .eEven, acc := a, hold := _ } => crcstep a 0x0000) :: s.responses })
      ∧ RefusedUnderFault .crcRead s

/-- 40_crc.md R53: crcstep feeds the word's 16 bits from the top; each turn shifts the accumulator, sets its bit 0 to the
bit fed ("acc + 1 never carries: it sets bit 0") and, where bit 15 was set before the shift, takes the exclusive-or with
0x8005. -/
def Obligations.CrcstepFeedsTheBitsOfAWordFromTheTop : Prop :=
  ∀ acc w : Word, crcstep acc w = (wordBits w).foldl
    (fun (a : Word) bit =>
      let shifted := (a <<< 1) ||| (if bit then 0x0001#16 else 0x0000#16)
      if a.getLsbD 15 then shifted ^^^ 0x8005 else shifted) acc

/-- 40_crc.md R55, and the short inputs of R54 and R57: fewer than 2 bytes give 0x0000, 2 bytes give the seed, and from 3
bytes on the words fed after the seed are the pairs and then a zero word or a half word, ⌊L/2⌋ words in all. -/
def Obligations.CrcOfLongInputsFeedsPairsThenTheTail : Prop :=
  crc16 [] = 0x0000 ∧ (∀ x, crc16 [x] = 0x0000) ∧ (∀ x y, crc16 [x, y] = be16 x y)
  ∧ ∀ (x y : Byte) (rest : List Byte), rest ≠ [] →
      crc16 (x :: y :: rest) = (wordsAfterSeed rest).foldl crcstep (be16 x y)
      ∧ (wordsAfterSeed rest).length = (x :: y :: rest).length / 2

/-- 40_crc.md R56: the checksum as a remainder over GF(2) modulo x¹⁶ + x¹⁵ + x² + 1, by the length of the input, and each
turn of the loop as one step of the division. -/
def Obligations.CrcIsARemainderOverGf2 : Prop :=
  let poly : List Bool → Polynomial (ZMod 2) := fun bits =>
    bits.foldl (fun p bit => Polynomial.X * p + Polynomial.C (if bit then 1 else 0)) 0
  let modulus : Polynomial (ZMod 2) := Polynomial.X ^ 16 + Polynomial.X ^ 15 + Polynomial.X ^ 2 + 1
  ∀ b : List Byte,
    (b.length < 2 → crc16 b = 0)
    ∧ (b.length = 2 → poly (wordBits (crc16 b)) = poly (byteBits b))
    ∧ (3 ≤ b.length → b.length % 2 = 1 →
        poly (wordBits (crc16 b)) = (poly (byteBits b) * Polynomial.X ^ 8) %ₘ modulus)
    ∧ (4 ≤ b.length → b.length % 2 = 0 →
        poly (wordBits (crc16 b)) = (poly (byteBits b) * Polynomial.X ^ 16) %ₘ modulus)
    ∧ ∀ (acc : Word) (bit : Bool), poly (wordBits (crcBit acc bit))
        = (Polynomial.X * poly (wordBits acc) + Polynomial.C (if bit then 1 else 0)) %ₘ modulus

/-- 10_state.md R22: what phase, accumulator and held byte are after any sequence of bytes. -/
def Obligations.EngineStateAfterAnySequence : Prop :=
  engFeedAll [] = { ph := .e0, acc := 0x0000, hold := 0x00 }
  ∧ (∀ x, engFeedAll [x] = { ph := .e1, acc := 0x0000, hold := x })
  ∧ (∀ x y, engFeedAll [x, y] = { ph := .e2, acc := be16 x y, hold := 0x00 })
  ∧ (∀ (x y : Byte) (mid : List Byte) (z : Byte), mid.length % 2 = 0 →
      engFeedAll (x :: y :: (mid ++ [z]))
        = { ph := .eOdd, acc := (pairWords mid).foldl crcstep (be16 x y), hold := z })
  ∧ (∀ (x y : Byte) (mid : List Byte), mid ≠ [] → mid.length % 2 = 0 →
      engFeedAll (x :: y :: mid)
        = { ph := .eEven, acc := (pairWords mid).foldl crcstep (be16 x y), hold := 0x00 })

/-- 40_crc.md R60: the byte-at-a-time engine computes the reference checksum of every byte sequence. -/
def Obligations.EngineEqualsTheReferenceChecksum : Prop :=
  ∀ b : List Byte, engFinal (b.foldl engFeed { ph := .e0, acc := 0x0000, hold := 0x00 }) = crc16 b

/-- 30_encoding.md R52, CRC16: the expansion answers WORD(crc16(b)) last, NONE before, and changes CU only. -/
def Obligations.Crc16ExpansionAnswersTheReferenceChecksum : Prop :=
  ∀ (b : List Byte) (s : State), s.blk.fault = false → ∃ cu,
    execAll (crc16Ops b) s = .next
      { s with
        cu := cu
        responses := .word (crc16 b) :: (List.replicate (b.length + 1) Response.none ++ s.responses) }

/-! ## The frame decoder -/

/-- 41_framer_decode.md R64 and R65: WAKEUP starts a frame where none is in progress, counts 0xFF up to 255, takes 0x02 as
the first STX, and reports E_STX_MISSING on any other byte. -/
def Obligations.WakeupStateRule : Prop :=
  ∀ s : State, s.blk.fault = false → s.fd.state = .wakeup →
    exec (.frByte 0xFF) s = .next
      { s with
        fd := { s.fd.inProgress with
          wakeCnt := if s.fd.inProgress.wakeCnt = 0xFF then 0xFF else s.fd.inProgress.wakeCnt + 1 }
        responses := .none :: s.responses }
    ∧ exec (.frByte 0x02) s = .next
      { s with fd := { s.fd.inProgress with stxCnt := 1, state := .stx }, responses := .none :: s.responses }
    ∧ ∀ b, b ≠ 0xFF → b ≠ 0x02 → exec (.frByte b) s = .next
      { s with
        fd := s.fd.inProgress.afterError (s.blk.cfg.getLsbD 1) 0x01 b false
        responses := .err 0x01 :: s.responses }

/-- 41_framer_decode.md R66: HUNT discards every byte but 0xFF and 0x02, and each of these starts a new frame as WAKEUP
does outside a frame. -/
def Obligations.HuntStateRule : Prop :=
  ∀ s : State, s.blk.fault = false → s.fd.state = .hunt →
    exec (.frByte 0xFF) s = .next
      { s with fd := { s.fd.afterSof with state := .wakeup, wakeCnt := 1 }, responses := .none :: s.responses }
    ∧ exec (.frByte 0x02) s = .next
      { s with fd := { s.fd.afterSof with state := .stx, stxCnt := 1 }, responses := .none :: s.responses }
    ∧ (∀ b, b ≠ 0xFF → b ≠ 0x02 → exec (.frByte b) s = .next { s with responses := .none :: s.responses })
    ∧ ∀ b, b = 0xFF ∨ b = 0x02 →
        exec (.frByte b) s = exec (.frByte b) { s with fd := { s.fd with state := .wakeup, inframe := false } }

/-- 41_framer_decode.md R67, R69, R70 and R71: STX counts further 0x02 bytes up to 255; the first other byte is the command
byte, refused with E_CMD_LEGACY when it is not extended and with E_CMD_UNKNOWN when it is not catalogued, and otherwise
stored and fed to the engine. -/
def Obligations.StxAndCommandByteRule : Prop :=
  ∀ s : State, s.blk.fault = false → s.fd.state = .stx →
    exec (.frByte 0x02) s = .next
      { s with
        fd := { s.fd with stxCnt := if s.fd.stxCnt = 0xFF then 0xFF else s.fd.stxCnt + 1 }
        responses := .none :: s.responses }
    ∧ (∀ b, b ≠ 0x02 → ¬ Extended b → exec (.frByte b) s = .next
        { s with
          fd := s.fd.afterError (s.blk.cfg.getLsbD 1) 0x02 b true, responses := .err 0x02 :: s.responses })
    ∧ (∀ b, Extended b → ¬ Known s.catalogue b → exec (.frByte b) s = .next
        { s with
          fd := s.fd.afterError (s.blk.cfg.getLsbD 1) 0x03 b true, responses := .err 0x03 :: s.responses })
    ∧ (∀ b, Known s.catalogue b → exec (.frByte b) s = .next
        { s with
          fd := { s.fd with cmd := b, eng := engFeed s.fd.eng b, state := .len }, responses := .none :: s.responses })

/-- 41_framer_decode.md R72: every LEN value is accepted; 0 goes to CRC_HI at once. -/
def Obligations.LenStateRule : Prop :=
  ∀ (b : Byte) (s : State), s.blk.fault = false → s.fd.state = .len → exec (.frByte b) s = .next
    { s with
      fd := { s.fd with
        len := b, eng := engFeed s.fd.eng b, dataCnt := 0, state := if b.toNat = 0 then .crcHi else .data }
      responses := .none :: s.responses }

/-- 41_framer_decode.md R73: DATA stores the byte at index FD.data_cnt and at no other, feeds it, and ends after FD.len
bytes. -/
def Obligations.DataStateRule : Prop :=
  ∀ (b : Byte) (s : State), s.blk.fault = false → s.fd.state = .data → s.fd.rxbuf.wf = true → s.fd.dataCnt.toNat < s.fd.len.toNat →
    ∃ rx, exec (.frByte b) s = .next
        { s with
          fd := { s.fd with
            rxbuf := rx, eng := engFeed s.fd.eng b, dataCnt := s.fd.dataCnt + 1
            state := if s.fd.dataCnt.toNat + 1 = s.fd.len.toNat then .crcHi else .data }
          responses := .none :: s.responses }
      ∧ (∀ j, rx.read j = if j = s.fd.dataCnt.toNat then b else s.fd.rxbuf.read j) ∧ rx.wf = true

/-- 41_framer_decode.md R74: CRC_HI takes the byte as the high byte of FD.crc_rx. -/
def Obligations.CrcHiStateRule : Prop :=
  ∀ (b : Byte) (s : State), s.blk.fault = false → s.fd.state = .crcHi → ∃ rx : Word,
    exec (.frByte b) s = .next
      { s with fd := { s.fd with crcRx := rx, state := .crcLo }, responses := .none :: s.responses }
    ∧ rx.toNat = 256 * b.toNat + s.fd.crcRx.toNat % 256

/-- 41_framer_decode.md R75: CRC_LO completes FD.crc_rx, latches the computed CRC, and under VERIFY reports E_CRC when the
two differ. -/
def Obligations.CrcLoStateRule : Prop :=
  ∀ (b : Byte) (s : State), s.blk.fault = false → s.fd.state = .crcLo → ∃ rx : Word,
    rx.toNat = 256 * (s.fd.crcRx.toNat / 256) + b.toNat
    ∧ (s.blk.cfg.getLsbD 0 = true → rx ≠ engFinal s.fd.eng → exec (.frByte b) s = .next
        { s with
          fd := Fd.afterError { s.fd with crcRx := rx, crcCalc := engFinal s.fd.eng } (s.blk.cfg.getLsbD 1) 0x04 b false
          responses := .err 0x04 :: s.responses })
    ∧ (s.blk.cfg.getLsbD 0 = false ∨ rx = engFinal s.fd.eng → exec (.frByte b) s = .next
        { s with
          fd := { s.fd with crcRx := rx, crcCalc := engFinal s.fd.eng, state := .etx }
          responses := .none :: s.responses })

/-- 41_framer_decode.md R76: ETX must be 0x03; a whole-buffer decode then waits in DONE, and a streaming decode answers
FRAME_OK. -/
def Obligations.EtxStateRule : Prop :=
  ∀ (b : Byte) (s : State), s.blk.fault = false → s.fd.state = .etx →
    (b ≠ 0x03 → exec (.frByte b) s = .next
      { s with fd := s.fd.afterError (s.blk.cfg.getLsbD 1) 0x05 b true, responses := .err 0x05 :: s.responses })
    ∧ (b = 0x03 → s.blk.cfg.getLsbD 1 = true → exec (.frByte b) s = .next
      { s with fd := { s.fd with state := .done }, responses := .none :: s.responses })
    ∧ (b = 0x03 → s.blk.cfg.getLsbD 1 = false → exec (.frByte b) s = .next
      { s with
        fd := { s.fd with frameValid := true, inframe := false, state := .wakeup }
        responses := .frameOk :: s.responses })

/-- 41_framer_decode.md R77 and R78: any byte in DONE is E_EXTRA_DATA, and DISCARD ignores every byte. -/
def Obligations.DoneAndDiscardStateRules : Prop :=
  ∀ (b : Byte) (s : State), s.blk.fault = false →
    (s.fd.state = .done → exec (.frByte b) s = .next
      { s with fd := s.fd.afterError (s.blk.cfg.getLsbD 1) 0x06 b false, responses := .err 0x06 :: s.responses })
    ∧ (s.fd.state = .discard → exec (.frByte b) s = .next { s with responses := .none :: s.responses })

/-- 41_framer_decode.md R79: FR_BYTE delivers any byte in any state with index room, changes FD and answers once, and
changes nothing else; SEL not zero is illegal, and under FAULT FD is unchanged. Without index room the model stops
(StopsOnlyInStatesNoRunReaches). -/
def Obligations.FrByteCompletesAndChangesFdOnly : Prop :=
  EncodedWithImm .frByte 0x7000
  ∧ ∀ (b : Byte) (s : State), (s.blk.fault = false → ¬ (s.fd.state = .data ∧ s.fd.dataCnt = 0xFF) → ∃ fd r,
        exec (.frByte b) s = .next { s with fd := fd, responses := r :: s.responses }
        ∧ (r = .none ∨ r = .frameOk ∨ ∃ e, 0x01 ≤ e.toNat ∧ e.toNat ≤ 0x06 ∧ r = .err e))
      ∧ RefusedUnderFault (.frByte b) s

/-- 60_exceptions.md R103: whatever the state, an FR_BYTE that answers ERR(code) has recorded the code in FD.errcode and
cleared FRAME_VALID; a whole-buffer decode is then in DISCARD with FD.inframe as it was or set by SOF; a streaming decode
hunts, unless the error is E_CMD_LEGACY, E_CMD_UNKNOWN or E_ETX and the byte is 0xFF or 0x02, which then has started the
next frame. -/
def Obligations.EveryFrByteErrorTakesTheDecoderErrorAction : Prop :=
  ∀ (b : Byte) (s t : State) (code : Byte), s.blk.fault = false → exec (.frByte b) s = .next t → t.responses = .err code :: s.responses →
    t.fd.errcode = code ∧ t.fd.frameValid = false ∧ code.toNat ∈ [1, 2, 3, 4, 5, 6]
    ∧ (s.blk.cfg.getLsbD 1 = true → t.fd.state = .discard ∧ t.fd.inframe = (s.fd.inframe || s.fd.state == .wakeup))
    ∧ (s.blk.cfg.getLsbD 1 = false →
        (code.toNat ∈ [2, 3, 5] → b = 0xFF →
          t.fd.state = .wakeup ∧ t.fd.inframe = true ∧ t.fd.wakeCnt = 1 ∧ t.fd.stxCnt = 0)
        ∧ (code.toNat ∈ [2, 3, 5] → b = 0x02 →
          t.fd.state = .stx ∧ t.fd.inframe = true ∧ t.fd.wakeCnt = 0 ∧ t.fd.stxCnt = 1)
        ∧ (code.toNat ∉ [2, 3, 5] ∨ (b ≠ 0xFF ∧ b ≠ 0x02) → t.fd.state = .hunt ∧ t.fd.inframe = false))

/-- 41_framer_decode.md R80: FR_END answers NONE and does nothing in streaming; in whole-buffer mode it answers the
buffer's one outcome and readies the decoder. In state CMD, which no operation leaves, the rule has no case
(StopsOnlyInStatesNoRunReaches). -/
def Obligations.FrEndReportsTheOutcomeOfTheBuffer : Prop :=
  EncodedExactly .frEnd 0x8000
  ∧ ∀ s : State, RefusedUnderFault .frEnd s
      ∧ (s.blk.fault = false → s.blk.cfg.getLsbD 1 = false →
          exec .frEnd s = .next { s with responses := .none :: s.responses })
      ∧ (s.blk.fault = false → s.blk.cfg.getLsbD 1 = true →
          (s.fd.state = .wakeup ∨ s.fd.state = .hunt → exec .frEnd s = .next
            { s with
              fd := { s.fd.inProgress with errcode := 0x01, frameValid := false, state := .wakeup, inframe := false }
              responses := .err 0x01 :: s.responses })
          ∧ (s.fd.state = .done → exec .frEnd s = .next
            { s with
              fd := { s.fd with frameValid := true, state := .wakeup, inframe := false }
              responses := .frameOk :: s.responses })
          ∧ (s.fd.state = .discard → exec .frEnd s = .next
            { s with
              fd := { s.fd with state := .wakeup, inframe := false }, responses := .err s.fd.errcode :: s.responses })
          ∧ (s.fd.state ∈ [.stx, .len, .data, .crcHi, .crcLo, .etx] → exec .frEnd s = .next
            { s with
              fd := { s.fd with errcode := 0x07, frameValid := false, state := .wakeup, inframe := false }
              responses := .err 0x07 :: s.responses }))

/-- 41_framer_decode.md R81: FR_RESET puts every FD element at its reset value; BLK, CU and EN are unchanged. -/
def Obligations.FrResetClearsTheDecoderOnly : Prop :=
  EncodedExactly .frReset 0x6000
  ∧ ∀ s : State, (s.blk.fault = false →
        exec .frReset s = .next { s with fd := Fd.cleared, responses := .none :: s.responses })
      ∧ RefusedUnderFault .frReset s

/-- 41_framer_decode.md R82: at the CRC low byte the computed CRC is the checksum of CMD, LEN and the payload. The premise
is the machine's invariant, which every step keeps (InvariantKeptByEveryStep). -/
def Obligations.ComputedCrcIsThatOfTheSpan : Prop :=
  ∀ (b : Byte) (s : State), s.Inv → s.blk.fault = false → s.fd.state = .crcLo → ∃ t,
    exec (.frByte b) s = .next t
    ∧ t.fd.crcCalc = crc16 (s.fd.cmd :: s.fd.len :: s.fd.rxbuf.firstBytes s.fd.len.toNat)
    ∧ t.fd.cmd = s.fd.cmd ∧ t.fd.len = s.fd.len ∧ t.fd.rxbuf = s.fd.rxbuf

/-- 00_scope.md R8, 41_framer_decode.md R65 and R68: n wakeup bytes are counted as min(n, 255), and n further STX bytes
saturate the STX count at 255. -/
def Obligations.WakeupAndStxCountsSaturate : Prop :=
  (∀ (n : Nat) (s : State), s.blk.fault = false → s.fd.Fresh → 0 < n → ∃ t,
    execAll (List.replicate n (.frByte 0xFF)) s = .next t
    ∧ t.fd.state = .wakeup ∧ t.fd.wakeCnt.toNat = min n 255
    ∧ t.responses = List.replicate n Response.none ++ s.responses)
  ∧ (∀ (n : Nat) (s : State), s.blk.fault = false → s.fd.state = .stx → ∃ t,
    execAll (List.replicate n (.frByte 0x02)) s = .next t
    ∧ t.fd.state = .stx ∧ t.fd.stxCnt.toNat = min (s.fd.stxCnt.toNat + n) 255
    ∧ t.responses = List.replicate n Response.none ++ s.responses)

/-- 41_framer_decode.md R85: a streaming decoder that hunts discards any bytes but 0xFF and 0x02 without a response but
NONE, and then receives the next valid frame, whatever came before. -/
def Obligations.StreamResynchronisesOnTheNextFrame : Prop :=
  ∀ (junk payload : List Byte) (c w t : Byte) (s : State),
    s.blk.fault = false → s.blk.cfg.getLsbD 1 = false → s.fd.state = .hunt → s.fd.rxbuf.wf = true →
    (∀ x ∈ junk, x ≠ 0xFF ∧ x ≠ 0x02) → Known s.catalogue c → payload.length ≤ 255 → t ≠ 0 →
    let span := c :: BitVec.ofNat 8 payload.length :: payload
    ∃ u, execAll ((junk ++ wireFrame w t span (crc16 span)).map .frByte) s = .next u
      ∧ u.responses = .frameOk ::
          (List.replicate (junk.length + w.toNat + t.toNat + payload.length + 4) Response.none ++ s.responses)
      ∧ u.fd.frameValid = true ∧ u.fd.cmd = c ∧ u.fd.len.toNat = payload.length
      ∧ u.fd.rxbuf.firstBytes payload.length = payload ∧ u.fd.wakeCnt = w ∧ u.fd.stxCnt = t
      ∧ u.fd.crcRx = crc16 span ∧ u.fd.crcCalc = crc16 span ∧ u.fd.errcode = s.fd.errcode

/-- 41_framer_decode.md R84: what a whole-buffer decode with VERIFY reports for a frame with another byte in place of ETX,
for one with another CRC (E_CRC and no other error), and for one without STX, where a command byte 0xFF is taken as one
more wakeup byte. The classes of the three errors are those of 60_exceptions.md R101. -/
def Obligations.DamagedFramesAreRejected : Prop :=
  ([ErrCode.etx, ErrCode.crc, ErrCode.stxMissing].map (fun e => (e.code, e.errClass))
    = [(0x05, some .framing), (0x04, some .crc), (0x01, some .framing)])
  ∧ ∀ (payload : List Byte) (c w t : Byte) (s : State),
    s.blk.fault = false → s.blk.cfg.getLsbD 0 = true → s.blk.cfg.getLsbD 1 = true → s.fd.Fresh →
    Known s.catalogue c → payload.length ≤ 255 → t ≠ 0 →
    let span := c :: BitVec.ofNat 8 payload.length :: payload
    (∀ x, x ≠ 0x03 → ∃ u,
      execAll (decodeOps ((wireFrame w t span (crc16 span)).dropLast ++ [x])) s = .next u
      ∧ u.responses.head? = some (.err 0x05))
    ∧ (∀ crc, crc ≠ crc16 span → ∃ u,
      execAll (decodeOps (wireFrame w t span crc)) s = .next u
      ∧ u.responses.head? = some (.err 0x04)
      ∧ ∀ r ∈ u.responses.take (w.toNat + t.toNat + payload.length + 6), r = .none ∨ r = .err 0x04)
    ∧ (c ≠ 0xFF ∨ (payload.length ≠ 0x02 ∧ payload.length ≠ 0xFF) → ∃ u,
      execAll (decodeOps (wireFrame w 0 span (crc16 span))) s = .next u
      ∧ u.responses.head? = some (.err 0x01))
    ∧ (c = 0xFF → payload.length = 0x02 → ∃ u,
      execAll (((wireFrame w 0 span (crc16 span)).take (w.toNat + 2)).map .frByte) s = .next u
      ∧ u.fd.state = .stx ∧ u.fd.stxCnt = 1)
    ∧ (c = 0xFF → payload.length = 0xFF → ∃ u,
      execAll (((wireFrame w 0 span (crc16 span)).take (w.toNat + 2)).map .frByte) s = .next u
      ∧ u.fd.state = .wakeup ∧ u.fd.wakeCnt.toNat = min (w.toNat + 2) 255)

/-! ## The frame encoder -/

/-- 42_encoder.md R86: ENC_CLR restores the encoder's inputs to their defaults and changes nothing else. -/
def Obligations.EncClrRestoresTheDefaults : Prop :=
  EncodedExactly .encClr 0xB000
  ∧ ∀ s : State, (s.blk.fault = false → exec .encClr s = .next
        { s with
          en := { cmd := 0x00, len := 0, txbuf := [], wake := 0x01, stx := 0x01, crcX := 0x0000, crcV := false }
          responses := .none :: s.responses })
      ∧ RefusedUnderFault .encClr s

/-- 42_encoder.md R87: each ENC_SET selector sets its one input; STX with 0 is the programmer error E_ENC_STX0; selectors 6
and up, and selector 5 with a byte, are illegal. -/
def Obligations.EncSetSetsTheSelectedInput : Prop :=
  (∀ d : Byte, decode (0xC000 ||| d.setWidth 16) = .legal (.encSetCmd d)
    ∧ decode (0xC100 ||| d.setWidth 16) = .legal (.encSetWake d)
    ∧ decode (0xC200 ||| d.setWidth 16) = .legal (.encSetStx d)
    ∧ decode (0xC300 ||| d.setWidth 16) = .legal (.encSetCrcHi d)
    ∧ decode (0xC400 ||| d.setWidth 16) = .legal (.encSetCrcLo d))
  ∧ decode 0xC500 = .legal .encSetCrcAuto
  ∧ (∀ (v : OpWord) (s : State), v >>> 12 = 0xC → (6 ≤ ((v >>> 8) &&& 0xF).toNat ∨ ((v >>> 8) &&& 0xF = 5 ∧ v &&& 0xFF ≠ 0)) →
      RaisesIllegalOp v s)
  ∧ ∀ (d : Byte) (s : State),
      (s.blk.fault = false →
        exec (.encSetCmd d) s = .next { s with en := { s.en with cmd := d }, responses := .none :: s.responses }
        ∧ exec (.encSetWake d) s = .next { s with en := { s.en with wake := d }, responses := .none :: s.responses }
        ∧ (d = 0 → exec (.encSetStx d) s = .next (s.afterProgError 0x0A))
        ∧ (d ≠ 0 →
            exec (.encSetStx d) s = .next { s with en := { s.en with stx := d }, responses := .none :: s.responses })
        ∧ (∃ x : Word, exec (.encSetCrcHi d) s = .next
              { s with en := { s.en with crcX := x, crcV := true }, responses := .none :: s.responses }
            ∧ x.toNat = 256 * d.toNat + s.en.crcX.toNat % 256)
        ∧ (∃ x : Word, exec (.encSetCrcLo d) s = .next
              { s with en := { s.en with crcX := x, crcV := true }, responses := .none :: s.responses }
            ∧ x.toNat = 256 * (s.en.crcX.toNat / 256) + d.toNat)
        ∧ exec .encSetCrcAuto s = .next { s with en := { s.en with crcV := false }, responses := .none :: s.responses })
      ∧ RefusedUnderFault (.encSetCmd d) s ∧ RefusedUnderFault (.encSetWake d) s ∧ RefusedUnderFault (.encSetStx d) s
      ∧ RefusedUnderFault (.encSetCrcHi d) s ∧ RefusedUnderFault (.encSetCrcLo d) s
      ∧ RefusedUnderFault .encSetCrcAuto s

/-- 42_encoder.md R88: ENC_PUSH appends at index EN.len and at no other, and the 256th byte is the programmer error
E_ENC_OVERFLOW. -/
def Obligations.EncPushAppendsOneByte : Prop :=
  EncodedWithImm .encPush 0xD000
  ∧ ∀ (d : Byte) (s : State),
      (s.blk.fault = false → s.en.len = 0xFF → exec (.encPush d) s = .next (s.afterProgError 0x09))
      ∧ (s.blk.fault = false → s.en.len ≠ 0xFF → s.en.txbuf.wf = true → ∃ tx,
          exec (.encPush d) s = .next
            { s with en := { s.en with txbuf := tx, len := s.en.len + 1 }, responses := .none :: s.responses }
          ∧ (∀ j, tx.read j = if j = s.en.len.toNat then d else s.en.txbuf.read j) ∧ tx.wf = true)
      ∧ RefusedUnderFault (.encPush d) s

/-- 42_encoder.md R89 and 60_exceptions.md R107: ENC_GO checks the command, then the catalogue, then the explicit CRC, and
otherwise answers the frame; it changes no state in any case. -/
def Obligations.EncGoAnswersTheFrameOrItsFirstError : Prop :=
  EncodedExactly .encGo 0xE000
  ∧ ∀ s : State, RefusedUnderFault .encGo s
      ∧ (s.blk.fault = false →
          let span := s.en.cmd :: s.en.len :: s.en.txbuf.firstBytes s.en.len.toNat
          let mismatch := s.en.crcV = true ∧ s.blk.cfg.getLsbD 2 = true ∧ s.en.crcX ≠ crc16 span
          let crc := if s.en.crcV then s.en.crcX else crc16 span
          (¬ Extended s.en.cmd → exec .encGo s = .next { s with responses := .err 0x02 :: s.responses })
          ∧ (Extended s.en.cmd → ¬ Known s.catalogue s.en.cmd →
              exec .encGo s = .next { s with responses := .err 0x03 :: s.responses })
          ∧ (Known s.catalogue s.en.cmd → mismatch →
              exec .encGo s = .next { s with responses := .err 0x08 :: s.responses })
          ∧ (Known s.catalogue s.en.cmd → ¬ mismatch → exec .encGo s = .next
              { s with
                responses := .bytes
                  (List.replicate s.en.wake.toNat 0xFF#8 ++ List.replicate s.en.stx.toNat 0x02#8 ++ span
                    ++ [(crc >>> 8).setWidth 8, crc.setWidth 8, 0x03]) :: s.responses }))

/-- 30_encoding.md R45, 00_scope.md R12 and 42_encoder.md R90: the byte offsets of the frame ENC_GO answers, its length, and
its CRC bytes when none was supplied. -/
def Obligations.FrameLayoutByOffsets : Prop :=
  ∀ (s : State) (seq : List Byte), s.blk.fault = false →
    exec .encGo s = .next { s with responses := .bytes seq :: s.responses } →
    let w := s.en.wake.toNat
    let t := s.en.stx.toNat
    let n := s.en.len.toNat
    let crc := crc16 (s.en.cmd :: s.en.len :: s.en.txbuf.firstBytes n)
    seq.length = w + t + n + 5
    ∧ (s.en.stx ≠ 0 → 6 ≤ seq.length ∧ seq.length ≤ 770)
    ∧ (∀ k, k < w → seq[k]? = some 0xFF)
    ∧ (∀ k, k < t → seq[w + k]? = some 0x02)
    ∧ seq[w + t]? = some s.en.cmd
    ∧ seq[w + t + 1]? = some s.en.len
    ∧ (∀ k, k < n → seq[w + t + 2 + k]? = some (s.en.txbuf.read k))
    ∧ (s.en.crcV = false → ∃ hi lo, seq[w + t + 2 + n]? = some hi ∧ seq[w + t + 3 + n]? = some lo
        ∧ crc.toNat = 256 * hi.toNat + lo.toNat)
    ∧ seq[w + t + 4 + n]? = some 0x03

/-- 10_state.md R24: after ENC_CLR and n pushes, EN.len is n and TXBUF[0..n−1] holds the pushed bytes in order. -/
def Obligations.EncoderLengthCountsThePushes : Prop :=
  ∀ (payload : List Byte) (s : State), s.blk.fault = false → payload.length ≤ 255 → ∃ tx,
    execAll (.encClr :: payload.map .encPush) s = .next
      { s with
        en := { cmd := 0x00, len := BitVec.ofNat 8 payload.length, txbuf := tx, wake := 0x01, stx := 0x01
                crcX := 0x0000, crcV := false }
        responses := List.replicate (payload.length + 1) Response.none ++ s.responses }
    ∧ tx.firstBytes payload.length = payload ∧ tx.wf = true

/-- 41_framer_decode.md R83: decoding what ENCODE produces ends in FRAME_OK with the command, the length, the payload, the
counts and both CRCs of the frame, for every known command, payload of 0 to 255 bytes and counts; an explicit CRC equal to
the computed one gives the same frame. -/
def Obligations.FrameRoundTrip : Prop :=
  ∀ (payload : List Byte) (c w t : Byte) (s s' : State), s.blk.fault = false → s'.blk.fault = false →
    Known s.catalogue c → s'.catalogue = s.catalogue → s'.blk.cfg.getLsbD 1 = true → s'.fd.Fresh →
    payload.length ≤ 255 → t ≠ 0 →
    let crc := crc16 (c :: BitVec.ofNat 8 payload.length :: payload)
    ∃ frame u v u',
      execAll (encodeOps c payload w t) s = .next u
      ∧ u.responses.head? = some (.bytes frame)
      ∧ execAll (encodeCrcOps c payload w t crc) s = .next v
      ∧ v.responses.head? = some (.bytes frame)
      ∧ execAll (decodeOps frame) s' = .next u'
      ∧ u'.responses.head? = some .frameOk
      ∧ u'.fd.frameValid = true ∧ u'.fd.cmd = c ∧ u'.fd.len.toNat = payload.length
      ∧ u'.fd.rxbuf.firstBytes payload.length = payload ∧ u'.fd.wakeCnt = w ∧ u'.fd.stxCnt = t
      ∧ u'.fd.crcRx = crc ∧ u'.fd.crcCalc = crc

/-! ## Encodings -/

/-- 30_encoding.md R43 and R87: words written out from the operation map decode to the operations they stand for. -/
def Obligations.WordsOfTheMapDecode : Prop :=
  decode 0b0000000000000000 = .legal .nop ∧ decode 0b0001000000000000 = .legal .rst
  ∧ decode 0b0011000001001101 = .legal (.crcByte 0x4D) ∧ decode 0b0101000011111101 = .legal (.cfgWr 0xFD)
  ∧ decode 0b0111000000000010 = .legal (.frByte 0x02) ∧ decode 0b1000000000000000 = .legal .frEnd
  ∧ decode 0b1001101100000000 = .legal (.rdReg .faultcode) ∧ decode 0b1010000011111110 = .legal (.rdData 0xFE)
  ∧ decode 0b1100001000000000 = .legal (.encSetStx 0x00) ∧ decode 0b1100010100000000 = .legal .encSetCrcAuto
  ∧ decode 0b1101000001001101 = .legal (.encPush 0x4D) ∧ decode 0b1111000011000100 = .legal (.classify 0xC4)
  ∧ decode 0b1010000011111111 = .illegal .rdDataOperand ∧ decode 0b1100010100000001 = .illegal .encSetOperand

/-- 30_encoding.md R41 to R43: decoding the encoding of a well-formed operation gives the operation back, with every
operand at every value. -/
def Obligations.DecodeOfEncodeIsTheOperation : Prop :=
  ∀ i : Instr, i.wellFormed = true → decode (encode i) = .legal i

/-- 30_encoding.md R43 and R48: a legal word has exactly one operation, well-formed, whose encoding is the word. -/
def Obligations.EncodeOfDecodeIsTheWord : Prop :=
  ∀ (w : OpWord) (i : Instr), decode w = .legal i → i.wellFormed = true ∧ encode i = w

/-- 30_encoding.md R48: the decoder rejects exactly the words of the five cases, and each of them is a programmer error
E_ILLEGAL_OP that changes no state but FAULT and FAULTCODE. -/
def Obligations.IllegalWordsAreExactlyTheListedOnes : Prop :=
  ∀ w : OpWord, ((∃ why, decode w = .illegal why) ↔ IllegalByTable w) ∧ (IllegalByTable w → ∀ s : State, RaisesIllegalOp w s)

/-! ## Performing words -/

/-- 60_exceptions.md R108: the illegal word first, then the FAULT gate on every OP but NOP, RST, RD_REG and RD_DATA, then
the operation. -/
def Obligations.ChecksAreMadeInOrder : Prop :=
  ∀ (w : OpWord) (s : State),
    (IllegalByTable w → perform w s = .next (s.afterProgError 0x0B))
    ∧ (¬ IllegalByTable w → s.blk.fault = true → (w >>> 12).toNat ∉ [0x0, 0x1, 0x9, 0xA] →
        perform w s = .next { s with responses := .err 0x0C :: s.responses })
    ∧ (¬ IllegalByTable w → s.blk.fault = false ∨ (w >>> 12).toNat ∈ [0x0, 0x1, 0x9, 0xA] →
        ∃ i, encode i = w ∧ perform w s = exec i s)

/-- 60_exceptions.md R106: under FAULT the four named operations execute and every other operation answers ERR(E_FAULTED)
and changes no state. -/
def Obligations.OnlyFourOperationsExecuteUnderFault : Prop :=
  ∀ (i : Instr) (s : State), i.wellFormed = true → s.blk.fault = true →
    match i with
    | .nop => exec i s = .next { s with responses := .none :: s.responses }
    | .rst => ∃ t, exec i s = .next t ∧ t.blk.fault = false ∧ t.blk.faultcode = 0x00
    | .rdReg r => exec i s = .next { s with responses := .byte (s.reg r) :: s.responses }
    | .rdData k => exec i s = .next { s with responses := .byte (s.fd.rxbuf.read k.toNat) :: s.responses }
    | _ => exec i s = .next { s with responses := .err 0x0C :: s.responses }

/-- 00_scope.md R5 and 60_exceptions.md R119, with log 1: a step takes the oldest issued word; it is exec of the operation
the word decodes to, or the programmer error of an illegal word; with none issued nothing changes. The list of issued words
is the model's own. -/
def Obligations.StepRunsTheNextIssuedWord : Prop :=
  ∀ s : State,
    (∀ i rest, i.wellFormed = true → s.issued = encode i :: rest → step s = exec i { s with issued := rest })
    ∧ (∀ w why rest, s.issued = w :: rest → decode w = .illegal why →
        step s = .next { s.afterProgError 0x0B with issued := rest })
    ∧ (s.issued = [] → step s = .next s)
    ∧ (∀ i, i.wellFormed = true → step (s.withFetchWord 16 (encode i).toNat) = exec i s)

/-- 20_memory.md R36, with log 1: stepping through the words of a program is performing its operations one after another,
each seeing every effect of the earlier ones. -/
def Obligations.StepsRunTheIssuedProgramInOrder : Prop :=
  ∀ (is : List Instr) (s : State), (∀ i ∈ is, i.wellFormed = true) → s.issued = [] →
    runSteps is.length (s.issue (is.map encode)) = execAll is s

/-- 00_scope.md R11 and R12, with log 2: a step with a word issued answers exactly once, consumes that word, and leaves the
catalogue as it is. -/
def Obligations.EachOperationRespondsExactlyOnce : Prop :=
  ∀ (s t : State) (w : OpWord) (rest : List OpWord), s.issued = w :: rest → step s = .next t →
    (∃ r, t.responses = r :: s.responses) ∧ t.issued = rest ∧ t.catalogue = s.catalogue

/-! ## Whole-machine rules -/

/-- 10_state.md R26: the access matrix. What an operation does not list it leaves unchanged; an illegal word, and a
programmer error of ENC_SET or ENC_PUSH (60_exceptions.md R104), writes FAULT and FAULTCODE. That every operation, RST among
them, also leaves the issued words and the catalogue as they are is not of the matrix: these are the model's own fields, and
it is the model's choice (log 1, log 3, log 11). -/
def Obligations.OnlyTheListedElementsAreWritten : Prop :=
  (∀ (w : OpWord) (s : State), IllegalByTable w → RaisesIllegalOp w s)
  ∧ ∀ (i : Instr) (s t : State), i.wellFormed = true → exec i s = .next t →
    t.issued = s.issued ∧ t.catalogue = s.catalogue
    ∧ match i with
      | .nop | .rdReg _ | .rdData _ | .classify _ | .crcRead | .encGo =>
        t.blk = s.blk ∧ t.cu = s.cu ∧ t.fd = s.fd ∧ t.en = s.en
      | .rst => t.blk = .reset ∧ t.cu = .clear ∧ t.fd = Fd.cleared ∧ t.en = .reset
      | .crcClr | .crcByte _ => t.blk = s.blk ∧ t.fd = s.fd ∧ t.en = s.en
      | .cfgWr _ =>
        t.blk.fault = s.blk.fault ∧ t.blk.faultcode = s.blk.faultcode ∧ t.cu = s.cu ∧ t.en = s.en
        ∧ t.fd = (if t.blk.cfg.getLsbD 1 = s.blk.cfg.getLsbD 1 then s.fd else Fd.cleared)
      | .frReset =>
        t.blk = s.blk ∧ t.cu = s.cu ∧ t.en = s.en ∧ t.fd = (if s.blk.fault then s.fd else Fd.cleared)
      | .frByte _ => t.blk = s.blk ∧ t.cu = s.cu ∧ t.en = s.en
      | .frEnd => t.blk = s.blk ∧ t.cu = s.cu ∧ t.en = s.en ∧ t.fd.rxbuf = s.fd.rxbuf
      | .encClr =>
        t.blk = s.blk ∧ t.cu = s.cu ∧ t.fd = s.fd ∧ t.en = (if s.blk.fault then s.en else .reset)
      | .encSetCmd _ => t.blk = s.blk ∧ t.cu = s.cu ∧ t.fd = s.fd ∧ t.en = { s.en with cmd := t.en.cmd }
      | .encSetWake _ => t.blk = s.blk ∧ t.cu = s.cu ∧ t.fd = s.fd ∧ t.en = { s.en with wake := t.en.wake }
      | .encSetStx _ =>
        t.blk.cfg = s.blk.cfg ∧ t.cu = s.cu ∧ t.fd = s.fd ∧ t.en = { s.en with stx := t.en.stx }
      | .encSetCrcHi _ | .encSetCrcLo _ =>
        t.blk = s.blk ∧ t.cu = s.cu ∧ t.fd = s.fd ∧ t.en = { s.en with crcX := t.en.crcX, crcV := t.en.crcV }
      | .encSetCrcAuto => t.blk = s.blk ∧ t.cu = s.cu ∧ t.fd = s.fd ∧ t.en = { s.en with crcV := t.en.crcV }
      | .encPush _ =>
        t.blk.cfg = s.blk.cfg ∧ t.cu = s.cu ∧ t.fd = s.fd
        ∧ t.en = { s.en with txbuf := t.en.txbuf, len := t.en.len }
        ∧ (s.en.txbuf.wf = true → ∀ j, j ≠ s.en.len.toNat → t.en.txbuf.read j = s.en.txbuf.read j)

/-- 20_memory.md R33: the six operations without side effects answer the same twice in a row and leave the state as it
was. -/
def Obligations.ReadingOperationsAreRepeatable : Prop :=
  ∀ (i : Instr) (s : State), i.wellFormed = true →
    (match i with
      | .nop | .rdReg _ | .rdData _ | .classify _ | .crcRead | .encGo => True
      | _ => False) →
    ∃ r, exec i s = .next { s with responses := r :: s.responses }
      ∧ exec i { s with responses := r :: s.responses } = .next { s with responses := r :: r :: s.responses }

/-- 10_state.md R21 and 60_exceptions.md R104: FAULT and its code stay until RST; a programmer error outside FAULT sets FAULT
and records its code; a step that sets FAULT answers a programmer error's code, records it, and changes no unit. (FD.errcode
is at most 7 in every state that meets the invariant; FR_END in DISCARD answers it.) -/
def Obligations.FaultStaysUntilRst : Prop :=
  ∀ (s t : State) (w : OpWord) (rest : List OpWord), s.issued = w :: rest → step s = .next t →
    (s.blk.fault = true → (w = 0x1000 ∧ t.blk.fault = false) ∨ (w ≠ 0x1000 ∧ t.blk = s.blk))
    ∧ (s.blk.fault = false → t.blk.fault = true →
        t.blk.faultcode.toNat ∈ [0x09, 0x0A, 0x0B] ∧ t.responses = .err t.blk.faultcode :: s.responses
        ∧ t.blk.cfg = s.blk.cfg ∧ t.cu = s.cu ∧ t.fd = s.fd ∧ t.en = s.en)
    ∧ (s.blk.fault = false → s.fd.errcode.toNat ≤ 7 → ∀ code : Byte, code.toNat ∈ [0x09, 0x0A, 0x0B] →
        t.responses = .err code :: s.responses → t.blk.fault = true ∧ t.blk.faultcode = code)

/-- 10_state.md R20: FD.errcode changes only when FR_BYTE or FR_END answers that error, or when FD is reset to 0x00. -/
def Obligations.ErrcodeIsWrittenOnlyByDecoderErrors : Prop :=
  ∀ (i : Instr) (s t : State), exec i s = .next t → t.fd.errcode ≠ s.fd.errcode →
    match i with
    | .frByte _ | .frEnd => t.responses = .err t.fd.errcode :: s.responses
    | .rst | .frReset | .cfgWr _ => t.fd.errcode = 0x00
    | _ => False

/-- 10_state.md R17: a step never leaves FD.state in CMD, so STATUS[3:0] never reads 2. -/
def Obligations.StateNeverHoldsCmdBetweenOperations : Prop :=
  ∀ s t : State, s.fd.state ≠ .cmd → step s = .next t → t.fd.state ≠ .cmd ∧ t.status &&& 0x0F ≠ 2

/-- 70_reset_and_hazards.md R123: a valid frame's registers stay through every operation but FR_BYTE, FR_END in whole-buffer
mode, FR_RESET, RST and a CFG_WR that changes BUFMODE, and each of these ends the window that FRAME_VALID marks. The premise
is the machine's invariant (InvariantKeptByEveryStep). -/
def Obligations.FrameRegistersLastUntilTheNextFrame : Prop :=
  ∀ (i : Instr) (s t : State), s.Inv → s.blk.fault = false → s.fd.frameValid = true → i.wellFormed = true → exec i s = .next t →
    match i with
    | .frByte _ | .frReset | .rst => t.fd.frameValid = false
    | .frEnd => if s.blk.cfg.getLsbD 1 then t.fd.frameValid = false else t.fd = s.fd
    | .cfgWr d => if s.blk.cfg.getLsbD 1 = d.getLsbD 1 then t.fd = s.fd else t.fd.frameValid = false
    | _ => t.fd = s.fd

/-- 70_reset_and_hazards.md R124: VERIFY is read by FR_BYTE at the CRC low byte only; BUFMODE by FR_BYTE at ETX and at
each error, and by FR_END; ENC_VERIFY by ENC_GO only. With another CFG that agrees on the bits read there, the operation
leaves the same units and answers the same. -/
def Obligations.SettingsAreReadAtTheirSamplingPoints : Prop :=
  ∀ s (cfg : Byte), s.blk.fault = false →
    let s' := { s with blk := { s.blk with cfg := cfg } }
    (∀ b t, exec (.frByte b) s = .next t → cfg.getLsbD 1 = s.blk.cfg.getLsbD 1 →
      s.fd.state ≠ .crcLo ∨ cfg.getLsbD 0 = s.blk.cfg.getLsbD 0 →
      exec (.frByte b) s' = .next { t with blk := { s.blk with cfg := cfg } })
    ∧ (∀ b t, exec (.frByte b) s = .next t → s.fd.state ≠ .etx → (∀ code, t.responses ≠ .err code :: s.responses) →
      s.fd.state ≠ .crcLo ∨ cfg.getLsbD 0 = s.blk.cfg.getLsbD 0 →
      exec (.frByte b) s' = .next { t with blk := { s.blk with cfg := cfg } })
    ∧ (∀ t, exec .frEnd s = .next t → cfg.getLsbD 1 = s.blk.cfg.getLsbD 1 →
      exec .frEnd s' = .next { t with blk := { s.blk with cfg := cfg } })
    ∧ (∀ t, exec .encGo s = .next t → cfg.getLsbD 2 = s.blk.cfg.getLsbD 2 →
      exec .encGo s' = .next { t with blk := { s.blk with cfg := cfg } })

/-- 70_reset_and_hazards.md R128: operations on different units do not interfere. What an operation on CU, FD or EN leaves
in its unit and answers depends on that unit, on BLK and on the catalogue alone. -/
def Obligations.UnitsDoNotInterfere : Prop :=
  ∀ (i : Instr) (s s' t : State), s'.blk = s.blk → s'.catalogue = s.catalogue → exec i s = .next t →
    match i with
    | .crcClr | .crcByte _ | .crcRead => s'.cu = s.cu → ∃ t',
        exec i s' = .next t' ∧ t'.cu = t.cu ∧ t'.blk = t.blk ∧ t'.responses.head? = t.responses.head?
    | .frReset | .frByte _ | .frEnd | .rdData _ => s'.fd = s.fd → ∃ t',
        exec i s' = .next t' ∧ t'.fd = t.fd ∧ t'.blk = t.blk ∧ t'.responses.head? = t.responses.head?
    | .encClr | .encSetCmd _ | .encSetWake _ | .encSetStx _ | .encSetCrcHi _ | .encSetCrcLo _ | .encSetCrcAuto
    | .encPush _ | .encGo => s'.en = s.en → ∃ t',
        exec i s' = .next t' ∧ t'.en = t.en ∧ t'.blk = t.blk ∧ t'.responses.head? = t.responses.head?
    | .nop | .rst | .cfgWr _ | .rdReg _ | .classify _ => True

/-- The invariant holds after reset. -/
def Obligations.InvariantHoldsAfterReset : Prop := State.reset.Inv

/-- The invariant of the machine is kept by every step, from every state that meets it: the buffers stay canonical, CFG's
reserved bits stay 0, FAULTCODE stays a programmer error's code exactly under FAULT, FD.state stays out of CMD and in the
states its mode allows, FD.data_cnt stays below FD.len in DATA, the engine and the computed CRC follow the span, a valid
frame's registers describe it, EN.stx stays at least 1 and TXBUF holds only pushed bytes. -/
def Obligations.InvariantKeptByEveryStep : Prop := ∀ s t : State, s.Inv → step s = .next t → t.Inv

/-- The model stops in two cases: FR_BYTE where the index it forms names no byte of RXBUF (log 6), and FR_END in whole-buffer
mode in state CMD (log 5). Both stops are the model's choice, and from a state that meets the invariant no step stops. -/
def Obligations.StopsOnlyInStatesNoRunReaches : Prop :=
  (∀ (i : Instr) (s : State) (f : Fault), exec i s = .fault f ↔
      f = .noSuchBufferByte ∧ (∃ b, i = .frByte b) ∧ s.blk.fault = false ∧ s.fd.state = .data ∧ s.fd.dataCnt = 0xFF)
  ∧ (∀ (i : Instr) (s : State) (r : Refusal), exec i s = .refused r ↔
      r = .cmdBetweenOperations ∧ i = .frEnd ∧ s.blk.fault = false ∧ s.blk.cfg.getLsbD 1 = true ∧ s.fd.state = .cmd)
  ∧ ∀ s : State, s.Inv → ∃ t, step s = .next t
end

