-- ==== Sys2Proof/Laws/Crc.lean ====
section
/-! SUPPORT. The CRC engine: the unfolding of its loop, and how a fed sequence grows. -/

namespace Sys2Proof.Machine

open Sys2Proof

theorem crcTurns_zero (acc w : Word) : crcTurns 0 acc w = acc := rfl

theorem crcTurns_succ (n : Nat) (acc w : Word) :
    crcTurns (n + 1) acc w = crcTurns n (crcBit acc w.msb) (w <<< 1) := rfl

/-- The loop runs to its end before the next turns. -/
theorem crcTurns_add (m n : Nat) (acc w : Word) :
    crcTurns (m + n) acc w = crcTurns n (crcTurns m acc w) (w <<< m) := by
  induction m generalizing acc w with
  | zero => simp [crcTurns]
  | succ m ih =>
    rw [Nat.succ_add, crcTurns_succ, ih, crcTurns_succ, ← BitVec.shiftLeft_add, Nat.add_comm 1 m]

@[simp] theorem engFeedAll_nil : engFeedAll [] = .clear := rfl

/-- Feeding one more byte (40_crc.md R58). -/
theorem engFeedAll_concat (b : List Byte) (x : Byte) : engFeedAll (b ++ [x]) = engFeed (engFeedAll b) x := by
  simp [engFeedAll]

/-- Feeding keeps the shape that 10_state.md R22 gives each phase. -/
theorem engFeed_inv (e : Engine) (x : Byte) : (engFeed e x).Inv := by
  cases h : e.ph <;> simp [engFeed, h, Engine.Inv]

theorem engine_clear_inv : Engine.clear.Inv := ⟨rfl, rfl⟩

theorem engFeedAll_inv (b : List Byte) : (engFeedAll b).Inv := by
  rcases List.eq_nil_or_concat b with rfl | ⟨b, x, rfl⟩
  · exact engine_clear_inv
  · rw [List.concat_eq_append, engFeedAll_concat]; exact engFeed_inv _ _

end Sys2Proof.Machine
end

