-- ==== Sys2Proof/Laws/Decode.lean ====
section
/-! SUPPORT. The fields of a word made from its fields, and the RD_REG selectors. -/

namespace Sys2Proof

@[simp] theorem opField_makeWord (op sel : BitVec 4) (imm : Byte) : opField (makeWord op sel imm) = op := by
  ext k hk
  simp [opField, makeWord]
  interval_cases k <;> simp

@[simp] theorem selField_makeWord (op sel : BitVec 4) (imm : Byte) : selField (makeWord op sel imm) = sel := by
  ext k hk
  simp [selField, makeWord]
  interval_cases k <;> simp

@[simp] theorem immField_makeWord (op sel : BitVec 4) (imm : Byte) : immField (makeWord op sel imm) = imm := by
  ext k hk
  simp [immField, makeWord]
  interval_cases k <;> simp

/-- A word is determined by its fields. -/
theorem makeWord_fields (w : OpWord) : makeWord (opField w) (selField w) (immField w) = w := by
  ext k hk
  simp [opField, selField, immField, makeWord]
  interval_cases k <;> simp

@[simp] theorem regSel_ofBits_toBits (s : RegSel) : RegSel.ofBits s.toBits = s := by cases s <;> rfl

end Sys2Proof
end

