-- ==== Sys2Proof/Laws/Memory.lean ====
section
/-! SUPPORT. The payload buffers: every operation keeps the canonical form, a read after a write gives the byte written,
a write leaves every other index alone, and two canonical buffers with the same bytes are the same data. -/

namespace Sys2Proof.Machine

open Sys2Proof


@[simp] theorem Memory.wf_nil : Memory.wf [] = true := rfl

@[simp] theorem Memory.read_nil (i : Nat) : Memory.read [] i = 0x00 := rfl

theorem Memory.read_cons (a : Nat) (v : Byte) (m : Memory) (i : Nat) :
    Memory.read ((a, v) :: m) i = if a = i then v else Memory.read m i := rfl

theorem Memory.wfFrom_cons {lo a : Nat} {v : Byte} {m : Memory} :
    Memory.wfFrom lo ((a, v) :: m) = true ↔
      lo ≤ a ∧ a < bufferBytes ∧ v ≠ 0x00 ∧ Memory.wfFrom (a + 1) m = true := by
  simp [Memory.wfFrom, and_assoc]

/-- The lower bound of a canonical buffer may be weakened. -/
theorem Memory.wfFrom_mono {lo lo' : Nat} {m : Memory} (h : lo' ≤ lo) (hm : Memory.wfFrom lo m = true) :
    Memory.wfFrom lo' m = true := by
  cases m with
  | nil => rfl
  | cons c m =>
    obtain ⟨a, v⟩ := c
    rw [wfFrom_cons] at hm ⊢
    exact ⟨by omega, hm.2⟩

/-- Below its lower bound a canonical buffer lists nothing. -/
theorem Memory.read_of_lt {lo i : Nat} {m : Memory} (hm : Memory.wfFrom lo m = true) (hi : i < lo) :
    Memory.read m i = 0x00 := by
  induction m generalizing lo with
  | nil => rfl
  | cons c m ih =>
    obtain ⟨a, v⟩ := c
    rw [wfFrom_cons] at hm
    rw [read_cons, if_neg (by omega)]
    exact ih hm.2.2.2 (by omega)

/-- A canonical buffer lists no index of 255 or more. -/
theorem Memory.read_of_ge {lo i : Nat} {m : Memory} (hm : Memory.wfFrom lo m = true) (hi : bufferBytes ≤ i) :
    Memory.read m i = 0x00 := by
  induction m generalizing lo with
  | nil => rfl
  | cons c m ih =>
    obtain ⟨a, v⟩ := c
    rw [wfFrom_cons] at hm
    rw [read_cons, if_neg (by omega)]
    exact ih hm.2.2.2

theorem Memory.wfFrom_put {lo i : Nat} {v : Byte} {m : Memory} (hlo : lo ≤ i) (hi : i < bufferBytes)
    (hm : Memory.wfFrom (i + 1) m = true) : Memory.wfFrom lo (Memory.put i v m) = true := by
  unfold Memory.put
  split
  · exact wfFrom_mono (by omega) hm
  · exact wfFrom_cons.2 ⟨hlo, hi, ‹_›, hm⟩

theorem Memory.read_put {i j : Nat} {v : Byte} {m : Memory} (hm : Memory.wfFrom (i + 1) m = true) :
    Memory.read (Memory.put i v m) j = if i = j then v else Memory.read m j := by
  unfold Memory.put
  split
  · next h =>
    split
    · next hij => subst hij; rw [read_of_lt hm (by omega), h]; rfl
    · rfl
  · rw [read_cons]

/-- A write keeps the canonical form. -/
theorem Memory.wfFrom_write {lo i : Nat} {v : Byte} {m : Memory} (hm : Memory.wfFrom lo m = true) (hlo : lo ≤ i)
    (hi : i < bufferBytes) : Memory.wfFrom lo (Memory.write m i v) = true := by
  induction m generalizing lo with
  | nil => exact wfFrom_put hlo hi rfl
  | cons c m ih =>
    obtain ⟨a, x⟩ := c
    rw [wfFrom_cons] at hm
    unfold Memory.write
    split
    · next h => exact wfFrom_put hlo hi (wfFrom_cons.2 ⟨by omega, hm.2⟩)
    · split
      · next h => subst h; exact wfFrom_put hlo hi hm.2.2.2
      · exact wfFrom_cons.2 ⟨hm.1, hm.2.1, hm.2.2.1, ih hm.2.2.2 (by omega)⟩

/-- Every memory operation that changes a buffer keeps its canonical form (the only one is a write below index 255). -/
theorem Memory.wf_write {i : Nat} {v : Byte} {m : Memory} (hm : m.wf = true) (hi : i < bufferBytes) :
    (m.write i v).wf = true :=
  wfFrom_write hm (Nat.zero_le _) hi

theorem Memory.read_writeFrom {lo i j : Nat} {v : Byte} {m : Memory} (hm : Memory.wfFrom lo m = true) :
    Memory.read (Memory.write m i v) j = if i = j then v else Memory.read m j := by
  induction m generalizing lo with
  | nil => exact read_put rfl
  | cons c m ih =>
    obtain ⟨a, x⟩ := c
    rw [wfFrom_cons] at hm
    unfold Memory.write
    split
    · next h => exact read_put (wfFrom_cons.2 ⟨by omega, hm.2⟩)
    · next h =>
      split
      · next h' =>
        subst h'
        rw [read_put hm.2.2.2, read_cons]
        split <;> rfl
      · next h' =>
        rw [read_cons, read_cons, ih hm.2.2.2]
        split
        · next ha => rw [if_neg (by omega)]
        · rfl

/-- What a buffer reads as after a write (20_memory.md R29): the byte written there, every other byte as before. -/
theorem Memory.read_write {i j : Nat} {v : Byte} {m : Memory} (hm : m.wf = true) :
    (m.write i v).read j = if i = j then v else m.read j :=
  read_writeFrom hm

theorem Memory.read_write_same {i : Nat} {v : Byte} {m : Memory} (hm : m.wf = true) : (m.write i v).read i = v := by
  rw [read_write hm, if_pos rfl]

theorem Memory.read_write_other {i j : Nat} {v : Byte} {m : Memory} (hm : m.wf = true) (h : i ≠ j) :
    (m.write i v).read j = m.read j := by
  rw [read_write hm, if_neg h]

/-- Equal buffers are equal data: a canonical buffer is determined by its bytes. -/
theorem Memory.ext_of_wfFrom {lo : Nat} {m m' : Memory} (hm : Memory.wfFrom lo m = true) (hm' : Memory.wfFrom lo m' = true)
    (h : ∀ i, Memory.read m i = Memory.read m' i) : m = m' := by
  induction m generalizing m' lo with
  | nil =>
    cases m' with
    | nil => rfl
    | cons c m' =>
      obtain ⟨a, v⟩ := c
      rw [wfFrom_cons] at hm'
      have := h a
      rw [read_cons, if_pos rfl] at this
      exact absurd this.symm hm'.2.2.1
  | cons c m ih =>
    obtain ⟨a, v⟩ := c
    have hm0 := wfFrom_cons.1 hm
    cases m' with
    | nil =>
      have := h a
      rw [read_cons, if_pos rfl] at this
      exact absurd this hm0.2.2.1
    | cons c' m' =>
      obtain ⟨a', v'⟩ := c'
      have hm0' := wfFrom_cons.1 hm'
      have haa : a = a' := by
        rcases Nat.lt_trichotomy a a' with hlt | heq | hgt
        · have := h a
          rw [read_cons, if_pos rfl, read_cons, if_neg (by omega), read_of_lt hm0'.2.2.2 (by omega)] at this
          exact absurd this hm0.2.2.1
        · exact heq
        · have := h a'
          rw [read_cons, if_neg (by omega), read_of_lt hm0.2.2.2 (by omega), read_cons, if_pos rfl] at this
          exact absurd this.symm hm0'.2.2.1
      subst haa
      have hv : v = v' := by
        have := h a
        rwa [read_cons, if_pos rfl, read_cons, if_pos rfl] at this
      subst hv
      congr 1
      refine ih hm0.2.2.2 hm0'.2.2.2 fun i => ?_
      have hi := h i
      rw [read_cons, read_cons] at hi
      split at hi
      · next ha =>
        rw [read_of_lt hm0.2.2.2 (by omega), read_of_lt hm0'.2.2.2 (by omega)]
      · exact hi

theorem Memory.ext_of_wf {m m' : Memory} (hm : m.wf = true) (hm' : m'.wf = true) (h : ∀ i, m.read i = m'.read i) : m = m' :=
  ext_of_wfFrom hm hm' h

/-! ### The first bytes of a buffer -/

@[simp] theorem Memory.firstBytes_length (m : Memory) (n : Nat) : (m.firstBytes n).length = n := by
  simp [Memory.firstBytes]

@[simp] theorem Memory.firstBytes_zero (m : Memory) : m.firstBytes 0 = [] := rfl

theorem Memory.firstBytes_succ (m : Memory) (n : Nat) : m.firstBytes (n + 1) = m.firstBytes n ++ [m.read n] := by
  simp [Memory.firstBytes, List.range_succ]

theorem Memory.firstBytes_congr {m m' : Memory} {n : Nat} (h : ∀ i, i < n → m.read i = m'.read i) :
    m.firstBytes n = m'.firstBytes n := by
  unfold Memory.firstBytes
  exact List.map_congr_left fun i hi => h i (List.mem_range.1 hi)

/-- Appending a byte at index n (43_control.md R98): the first n + 1 bytes are the first n and the byte. -/
theorem Memory.firstBytes_write {m : Memory} (hm : m.wf = true) (n : Nat) (v : Byte) :
    (m.write n v).firstBytes (n + 1) = m.firstBytes n ++ [v] := by
  rw [firstBytes_succ, read_write_same hm]
  congr 1
  exact firstBytes_congr fun i hi => read_write_other hm (by omega)


/-- The buffers of the machine after reset are canonical. -/
theorem reset_buffers_wf : State.reset.fd.rxbuf.wf = true ∧ State.reset.en.txbuf.wf = true := ⟨rfl, rfl⟩

end Sys2Proof.Machine
end

