-- ==== Sys2Proof/Laws/State.lean ====
section
/-! SUPPORT. The small lemmas of the state: what each shared update leaves in each field. -/

namespace Sys2Proof.Machine

open Sys2Proof

section Respond
variable (s : State) (r : Response)
@[simp] theorem State.respond_blk : (s.respond r).blk = s.blk := rfl
@[simp] theorem State.respond_cu : (s.respond r).cu = s.cu := rfl
@[simp] theorem State.respond_fd : (s.respond r).fd = s.fd := rfl
@[simp] theorem State.respond_en : (s.respond r).en = s.en := rfl
@[simp] theorem State.respond_catalogue : (s.respond r).catalogue = s.catalogue := rfl
@[simp] theorem State.respond_issued : (s.respond r).issued = s.issued := rfl
@[simp] theorem State.respond_responses : (s.respond r).responses = r :: s.responses := rfl
end Respond

section ResetAction
variable (s : State)
@[simp] theorem State.resetAction_blk : s.resetAction.blk = .reset := rfl
@[simp] theorem State.resetAction_cu : s.resetAction.cu = .clear := rfl
@[simp] theorem State.resetAction_fd : s.resetAction.fd = .reset := rfl
@[simp] theorem State.resetAction_en : s.resetAction.en = .reset := rfl
@[simp] theorem State.resetAction_catalogue : s.resetAction.catalogue = s.catalogue := rfl
@[simp] theorem State.resetAction_issued : s.resetAction.issued = s.issued := rfl
@[simp] theorem State.resetAction_responses : s.resetAction.responses = s.responses := rfl
end ResetAction

section Issue
variable (s : State) (ws : List OpWord)
@[simp] theorem State.issue_blk : (s.issue ws).blk = s.blk := rfl
@[simp] theorem State.issue_cu : (s.issue ws).cu = s.cu := rfl
@[simp] theorem State.issue_fd : (s.issue ws).fd = s.fd := rfl
@[simp] theorem State.issue_en : (s.issue ws).en = s.en := rfl
@[simp] theorem State.issue_catalogue : (s.issue ws).catalogue = s.catalogue := rfl
@[simp] theorem State.issue_issued : (s.issue ws).issued = ws ++ s.issued := rfl
@[simp] theorem State.issue_responses : (s.issue ws).responses = s.responses := rfl
end Issue

section AfterProgError
variable (s : State) (c : Byte)
@[simp] theorem State.afterProgError_cu : (s.afterProgError c).cu = s.cu := rfl
@[simp] theorem State.afterProgError_fd : (s.afterProgError c).fd = s.fd := rfl
@[simp] theorem State.afterProgError_en : (s.afterProgError c).en = s.en := rfl
@[simp] theorem State.afterProgError_catalogue : (s.afterProgError c).catalogue = s.catalogue := rfl
@[simp] theorem State.afterProgError_issued : (s.afterProgError c).issued = s.issued := rfl
@[simp] theorem State.afterProgError_responses : (s.afterProgError c).responses = .err c :: s.responses := rfl
end AfterProgError

section Sof
variable (fd : Fd)
@[simp] theorem Fd.sof_state : fd.sof.state = fd.state := rfl
@[simp] theorem Fd.sof_inframe : fd.sof.inframe = true := rfl
@[simp] theorem Fd.sof_wakeCnt : fd.sof.wakeCnt = 0 := rfl
@[simp] theorem Fd.sof_stxCnt : fd.sof.stxCnt = 0 := rfl
@[simp] theorem Fd.sof_cmd : fd.sof.cmd = 0 := rfl
@[simp] theorem Fd.sof_len : fd.sof.len = 0 := rfl
@[simp] theorem Fd.sof_dataCnt : fd.sof.dataCnt = 0 := rfl
@[simp] theorem Fd.sof_rxbuf : fd.sof.rxbuf = fd.rxbuf := rfl
@[simp] theorem Fd.sof_crcRx : fd.sof.crcRx = 0 := rfl
@[simp] theorem Fd.sof_crcCalc : fd.sof.crcCalc = 0 := rfl
@[simp] theorem Fd.sof_eng : fd.sof.eng = .clear := rfl
@[simp] theorem Fd.sof_frameValid : fd.sof.frameValid = false := rfl
@[simp] theorem Fd.sof_errcode : fd.sof.errcode = fd.errcode := rfl
end Sof

end Sys2Proof.Machine
end

