-- ==== Sys2Proof/Laws/Ops.lean ====
section
/-! SUPPORT. One lemma for each shared operation, saying everything it can do. -/

namespace Sys2Proof.Machine

open Sys2Proof

/-! ## Bytes and words -/

@[simp] theorem hi8_be16 (h l : Byte) : hi8 (be16 h l) = h := by
  ext k hk
  simp [hi8, be16]
  interval_cases k <;> simp

@[simp] theorem lo8_be16 (h l : Byte) : lo8 (be16 h l) = l := by
  ext k hk
  simp [lo8, be16]
  interval_cases k <;> simp

/-- A word is its two bytes, the high one first. -/
@[simp] theorem be16_hi8_lo8 (w : Word) : be16 (hi8 w) (lo8 w) = w := by
  ext k hk
  simp [lo8, be16, hi8]
  interval_cases k <;> simp

theorem be16_toNat (h l : Byte) : (be16 h l).toNat = 256 * h.toNat + l.toNat := by
  have : be16 h l = h.setWidth 16 <<< 8 + l.setWidth 16 := by
    unfold be16
    rw [BitVec.add_eq_or_of_and_eq_zero]
    ext k hk
    simp
    intro h8 _
    exact BitVec.getLsbD_of_ge _ _ h8
  have := h.isLt; have := l.isLt
  rw [‹be16 h l = _›, BitVec.toNat_add]
  simp [Nat.shiftLeft_eq]
  omega

/-- `sat_inc8(n) = min(n + 1, 255)` (00_scope.md R10). -/
theorem satInc8_toNat (n : Byte) : (satInc8 n).toNat = min (n.toNat + 1) 255 := by
  unfold satInc8
  split
  · next h => subst h; rfl
  · next h =>
    have : n.toNat ≠ 255 := fun hn => h (BitVec.eq_of_toNat_eq (by simpa using hn))
    have := n.isLt
    rw [BitVec.toNat_add]
    simp
    omega

/-! ## Responding, the gate and the programmer error -/

theorem answer_eq (s : State) (r : Response) : answer s r = .next (s.respond r) := rfl

@[simp] theorem answer_next_iff {s t : State} {r : Response} : answer s r = .next t ↔ s.respond r = t := by
  simp [answer]

@[simp] theorem unlessFaulted_of_running {s : State} (h : s.blk.fault = false) (o : StepResult) :
    unlessFaulted s o = o := by
  simp [unlessFaulted, h]

@[simp] theorem unlessFaulted_of_faulted {s : State} (h : s.blk.fault = true) (o : StepResult) :
    unlessFaulted s o = .next (s.respond (.err 0x0C)) := by
  simp [unlessFaulted, h, answer, errResponse, ErrCode.code]

/-- The gate answers a next state in two ways: the refusal under FAULT, or the operation itself. -/
theorem unlessFaulted_next_iff {s t : State} {o : StepResult} :
    unlessFaulted s o = .next t ↔
      (s.blk.fault = true ∧ t = s.respond (.err 0x0C)) ∨ (s.blk.fault = false ∧ o = .next t) := by
  cases h : s.blk.fault <;> simp [h, eq_comm]

/-- The programmer-error action always completes, in `afterProgError`. -/
theorem progError_eq (e : ErrCode) (s : State) : progError e s = .next (s.afterProgError e.code) := by
  unfold progError answer errResponse State.afterProgError State.respond
  cases s.blk.fault <;> rfl

theorem illegalOp_eq (s : State) : illegalOp s = .next (s.afterProgError 0x0B) := progError_eq .illegalOp s

/-- A programmer error leaves FAULT set. -/
@[simp] theorem State.afterProgError_fault (s : State) (c : Byte) : (s.afterProgError c).blk.fault = true := by
  unfold State.afterProgError
  cases h : s.blk.fault <;> simp [h]

@[simp] theorem State.afterProgError_cfg (s : State) (c : Byte) : (s.afterProgError c).blk.cfg = s.blk.cfg := by
  unfold State.afterProgError
  cases s.blk.fault <;> rfl

/-- Only the first programmer error's code is kept. -/
theorem State.afterProgError_faultcode (s : State) (c : Byte) :
    (s.afterProgError c).blk.faultcode = if s.blk.fault then s.blk.faultcode else c := by
  unfold State.afterProgError
  cases s.blk.fault <;> rfl

@[simp] theorem finishFd_eq (s : State) (out : Fd × Response) :
    finishFd s out = .next { s with fd := out.1, responses := out.2 :: s.responses } := rfl

@[simp] theorem finishEn_eq (s : State) (en : En) :
    finishEn s en = .next { s with en := en, responses := .none :: s.responses } := rfl

/-! ## Start of frame, hunting, and the decoder error -/

theorem isMarker_iff {b : Byte} : isMarker b = true ↔ b = 0xFF#8 ∨ b = 0x02#8 := by
  simp [isMarker]

theorem Fd.openFrame_of_inframe {fd : Fd} (h : fd.inframe = true) : fd.openFrame = fd := by
  simp [Fd.openFrame, h]

theorem Fd.openFrame_of_not_inframe {fd : Fd} (h : fd.inframe = false) : fd.openFrame = fd.sof := by
  simp [Fd.openFrame, h]

@[simp] theorem Fd.openFrame_inframe (fd : Fd) : fd.openFrame.inframe = true := by
  cases h : fd.inframe <;> simp [Fd.openFrame, h]

@[simp] theorem Fd.openFrame_state (fd : Fd) : fd.openFrame.state = fd.state := by
  cases h : fd.inframe <;> simp [Fd.openFrame, h]

@[simp] theorem Fd.openFrame_rxbuf (fd : Fd) : fd.openFrame.rxbuf = fd.rxbuf := by
  cases h : fd.inframe <;> simp [Fd.openFrame, h]

@[simp] theorem Fd.openFrame_errcode (fd : Fd) : fd.openFrame.errcode = fd.errcode := by
  cases h : fd.inframe <;> simp [Fd.openFrame, h]

@[simp] theorem Fd.takeMarker_wakeup (fd : Fd) :
    fd.takeMarker 0xFF#8 = some { fd with wakeCnt := satInc8 fd.wakeCnt } := rfl

@[simp] theorem Fd.takeMarker_stx (fd : Fd) : fd.takeMarker 0x02#8 = some { fd with stxCnt := 1, state := .stx } := rfl

theorem Fd.takeMarker_other {fd : Fd} {b : Byte} (h : b ≠ 0xFF#8) (h' : b ≠ 0x02#8) :
    fd.takeMarker b = Option.none := by
  simp [Fd.takeMarker, h, h']

/-- HUNT discards every byte that is no marker. -/
theorem Fd.hunt_discards {fd : Fd} {b : Byte} (h : isMarker b = false) : fd.hunt b = fd := by
  simp only [isMarker, Bool.or_eq_false_iff, beq_eq_false_iff_ne] at h
  simp [Fd.hunt, Fd.takeMarker_other h.1 h.2]

/-- HUNT on a wakeup byte: a new frame with one wakeup counted. -/
theorem Fd.hunt_wakeup (fd : Fd) :
    fd.hunt 0xFF#8 = { fd.sof with state := .wakeup, wakeCnt := 1 } := rfl

/-- HUNT on an STX byte: a new frame with one STX counted. -/
theorem Fd.hunt_stx (fd : Fd) : fd.hunt 0x02#8 = { fd.sof with state := .stx, stxCnt := 1 } := rfl

/-- The decoder error in whole-buffer mode. -/
theorem Fd.decodeError_buffer {cfg : Byte} (h : bufMode cfg = true) (e : ErrCode) (b : Byte) (rx : Bool) (fd : Fd) :
    fd.decodeError cfg e b rx =
      ({ fd with errcode := e.code, frameValid := false, state := .discard }, .err e.code) := by
  simp [Fd.decodeError, h, errResponse]

/-- The decoder error in streaming, without a new frame. -/
theorem Fd.decodeError_stream {cfg : Byte} (h : bufMode cfg = false) (e : ErrCode) (b : Byte) (rx : Bool) (fd : Fd)
    (hb : (rx && isMarker b) = false) :
    fd.decodeError cfg e b rx =
      ({ fd with errcode := e.code, frameValid := false, state := .hunt, inframe := false }, .err e.code) := by
  simp [Fd.decodeError, h, errResponse, hb]

/-- The decoder error in streaming on a byte that starts the next frame. -/
theorem Fd.decodeError_restart {cfg : Byte} (h : bufMode cfg = false) (e : ErrCode) (b : Byte) (rx : Bool) (fd : Fd)
    (hb : (rx && isMarker b) = true) :
    fd.decodeError cfg e b rx =
      (Fd.hunt { fd with errcode := e.code, frameValid := false, state := .hunt, inframe := false } b, .err e.code) := by
  simp [Fd.decodeError, h, errResponse, hb]

/-- Every decoder error answers its code. -/
@[simp] theorem Fd.decodeError_response (cfg : Byte) (e : ErrCode) (b : Byte) (rx : Bool) (fd : Fd) :
    (fd.decodeError cfg e b rx).2 = .err e.code := by
  cases h : bufMode cfg <;> simp [Fd.decodeError, h, errResponse]

/-- The decoder error action, whole: the registers it leaves and its response (60_exceptions.md R103). -/
theorem Fd.decodeError_eq (cfg : Byte) (e : ErrCode) (b : Byte) (rx : Bool) (fd : Fd) :
    fd.decodeError cfg e b rx = (fd.afterError (cfg.getLsbD 1) e.code b rx, .err e.code) := by
  cases hb : bufMode cfg
  · have hb' : cfg.getLsbD 1 = false := hb
    unfold Fd.afterError
    rw [hb']
    cases hm : rx && isMarker b
    · rw [Fd.decodeError_stream hb _ _ _ _ hm]
      simp only [Bool.and_eq_false_imp, isMarker] at hm
      have h1 : ¬ (rx = true ∧ b = 0xFF) := fun h => by simp [h] at hm
      have h2 : ¬ (rx = true ∧ b = 0x02) := fun h => by simp [h] at hm
      rw [if_neg (by simp), if_neg h1, if_neg h2]
    · rw [Fd.decodeError_restart hb _ _ _ _ hm]
      simp only [Bool.and_eq_true, isMarker_iff] at hm
      obtain ⟨rfl, rfl | rfl⟩ := hm <;> rfl
  · have hb' : cfg.getLsbD 1 = true := hb
    simp [Fd.decodeError_buffer hb, Fd.afterError, hb']

/-- `if FD.inframe = 0: SOF()` leaves the registers of the frame in progress. -/
theorem Fd.openFrame_eq (fd : Fd) : fd.openFrame = fd.inProgress := rfl

/-! ## Command bytes, and a byte delivered to the decoder -/

theorem isExtended_iff (c : Byte) : isExtended c = true ↔ Extended c := by simp [isExtended, Extended]

theorem knownCmd_iff (k : Catalogue) (c : Byte) : knownCmd k c = true ↔ Known k c := by
  cases k <;> simp [knownCmd, Known, isExtended_iff]

theorem Fd.indexOutside_of_not_data {fd : Fd} (h : fd.state ≠ .data) : fd.indexOutside = false := by
  simp [Fd.indexOutside, h]

theorem Fd.indexOutside_of_lt {fd : Fd} (h : fd.dataCnt.toNat < 255) : fd.indexOutside = false := by
  have h' : fd.rxIndex < bufferBytes := h
  simp [Fd.indexOutside, h']

/-- FR_BYTE without FAULT, where the index it forms names a byte. -/
theorem execFrByte_of_running {b : Byte} {s : State} (hf : s.blk.fault = false) (hi : s.fd.indexOutside = false) :
    execFrByte b s = .next
      { s with
        fd := (s.fd.onByte s.blk.cfg s.catalogue b).1
        responses := (s.fd.onByte s.blk.cfg s.catalogue b).2 :: s.responses } := by
  simp [execFrByte, hf, hi]

end Sys2Proof.Machine
end

