-- ==== Sys2Proof/Laws/PerInstr.lean ====
section
/-! SUPPORT. Statements about all operations, made one operation at a time. The family TableWord: the word of an operation
has the fixed bits that its row of spec/opcode_table.json gives (the row's mask and match, copied from the table). -/

namespace Sys2Proof.Laws.TableWord

open Sys2Proof

/-- The mask and the match of the operation's row. -/
def row : Instr → OpWord × OpWord
  | .nop => (0xFFFF, 0x0000)
  | .rst => (0xFFFF, 0x1000)
  | .crcClr => (0xFFFF, 0x2000)
  | .crcByte _ => (0xFF00, 0x3000)
  | .crcRead => (0xFFFF, 0x4000)
  | .cfgWr _ => (0xFF00, 0x5000)
  | .frReset => (0xFFFF, 0x6000)
  | .frByte _ => (0xFF00, 0x7000)
  | .frEnd => (0xFFFF, 0x8000)
  | .rdReg _ => (0xF0FF, 0x9000)
  | .rdData _ => (0xFF00, 0xA000)
  | .encClr => (0xFFFF, 0xB000)
  | .encSetCmd _ => (0xFF00, 0xC000)
  | .encSetWake _ => (0xFF00, 0xC100)
  | .encSetStx _ => (0xFF00, 0xC200)
  | .encSetCrcHi _ => (0xFF00, 0xC300)
  | .encSetCrcLo _ => (0xFF00, 0xC400)
  | .encSetCrcAuto => (0xFFFF, 0xC500)
  | .encPush _ => (0xFF00, 0xD000)
  | .encGo => (0xFFFF, 0xE000)
  | .classify _ => (0xFF00, 0xF000)

/-- The word of the operation has its row's fixed bits. -/
def Statement (i : Instr) : Prop := encode i &&& (row i).1 = (row i).2

/-- The fixed bits of an operation with IMM only do not depend on the byte. -/
theorem imm_word (op sel : BitVec 4) (d : Byte) : makeWord op sel d &&& 0xFF00 = makeWord op sel 0 := by
  ext k hk
  interval_cases k <;> simp [makeWord]

theorem nop : Statement .nop := rfl
theorem rst : Statement .rst := rfl
theorem crcClr : Statement .crcClr := rfl
theorem crcByte (d : Byte) : Statement (.crcByte d) := imm_word 0x3 0 d
theorem crcRead : Statement .crcRead := rfl
theorem cfgWr (d : Byte) : Statement (.cfgWr d) := imm_word 0x5 0 d
theorem frReset : Statement .frReset := rfl
theorem frByte (d : Byte) : Statement (.frByte d) := imm_word 0x7 0 d
theorem frEnd : Statement .frEnd := rfl
theorem rdReg (s : RegSel) : Statement (.rdReg s) := by cases s <;> rfl
theorem rdData (i : Byte) : Statement (.rdData i) := imm_word 0xA 0 i
theorem encClr : Statement .encClr := rfl
theorem encSetCmd (d : Byte) : Statement (.encSetCmd d) := imm_word 0xC 0 d
theorem encSetWake (d : Byte) : Statement (.encSetWake d) := imm_word 0xC 1 d
theorem encSetStx (d : Byte) : Statement (.encSetStx d) := imm_word 0xC 2 d
theorem encSetCrcHi (d : Byte) : Statement (.encSetCrcHi d) := imm_word 0xC 3 d
theorem encSetCrcLo (d : Byte) : Statement (.encSetCrcLo d) := imm_word 0xC 4 d
theorem encSetCrcAuto : Statement .encSetCrcAuto := rfl
theorem encPush (d : Byte) : Statement (.encPush d) := imm_word 0xD 0 d
theorem encGo : Statement .encGo := rfl
theorem classify (c : Byte) : Statement (.classify c) := imm_word 0xF 0 c

end Sys2Proof.Laws.TableWord
end

