-- ==== Sys2Proof/Machine/Assembler.lean ====
section
/-! DEFINITION. The assembler syntax (30_encoding.md R51, R52) with the selector names of R44: one line of text to the
operations it stands for. It is host side; what R51 leaves open of the syntax is in log 15. -/

namespace Sys2Proof.Machine

open Sys2Proof

/-- White space inside a line. -/
def isBlank (c : Char) : Bool := c == ' ' || c == '\t'

/-- A piece of a line without the white space around it. -/
def trimBlanks (cs : List Char) : List Char :=
  ((cs.dropWhile isBlank).reverse.dropWhile isBlank).reverse

/-- The pieces of a text between commas. -/
def splitAtCommas : List Char → List (List Char)
  | [] => [[]]
  | c :: rest =>
    match splitAtCommas rest with
    | [] => [[c]]
    | piece :: more => if c == ',' then [] :: piece :: more else (c :: piece) :: more

/-- The operands of a line: none for an empty text. -/
def operandTexts (cs : List Char) : List (List Char) :=
  if trimBlanks cs = [] then [] else (splitAtCommas cs).map trimBlanks

/-- The value of a digit in base 16. -/
def digitValue (c : Char) : Option Nat :=
  let n := c.toNat
  if 48 ≤ n ∧ n ≤ 57 then some (n - 48)
  else if 65 ≤ n ∧ n ≤ 70 then some (n - 55)
  else if 97 ≤ n ∧ n ≤ 102 then some (n - 87)
  else Option.none

/-- The number a row of digits stands for in a base, on top of what has been read. -/
def digitsValue (base : Nat) : Nat → List Char → Option Nat
  | n, [] => some n
  | n, c :: rest =>
    match digitValue c with
    | some d => if d < base then digitsValue base (n * base + d) rest else Option.none
    | Option.none => Option.none

/-- A number: "hex `0x..` or decimal". -/
def numberValue : List Char → Option Nat
  | '0' :: 'x' :: d :: rest => digitsValue 16 0 (d :: rest)
  | d :: rest => digitsValue 10 0 (d :: rest)
  | [] => Option.none

/-- A number that fits a byte. -/
def byteOperand (cs : List Char) : Option Byte :=
  (numberValue cs).bind fun n => if n < 256 then some (BitVec.ofNat 8 n) else Option.none

/-- A number that fits a 16-bit word. -/
def wordOperand (cs : List Char) : Option Word :=
  (numberValue cs).bind fun n => if n < 65536 then some (BitVec.ofNat 16 n) else Option.none

/-- All of a list, or nothing. -/
def allSome {α : Type} : List (Option α) → Option (List α)
  | [] => some []
  | Option.none :: _ => Option.none
  | some a :: rest => (allSome rest).map (a :: ·)

/-- The RD_REG selectors with their names, in the order of R44. -/
def regSelNames : List (String × RegSel) :=
  [("STATUS", .status), ("ERRCODE", .errcode), ("CFG", .cfg), ("RX_CMD", .rxCmd), ("RX_LEN", .rxLen),
   ("RX_CRC_HI", .rxCrcHi), ("RX_CRC_LO", .rxCrcLo), ("CALC_HI", .calcHi), ("CALC_LO", .calcLo),
   ("WAKE_CNT", .wakeCnt), ("STX_CNT", .stxCnt), ("FAULTCODE", .faultcode), ("ENC_CMD", .encCmd),
   ("ENC_LEN", .encLen), ("ENC_WAKE", .encWake), ("ENC_STX", .encStx)]

/-- The position of a name in a list, or the number the text stands for: "Selectors are written by name or number". -/
def selectorNumber (names : List String) (cs : List Char) : Option Nat :=
  match names.findIdx? (fun n => n.toList == cs) with
  | some k => some k
  | Option.none => (numberValue cs).bind fun n => if n < names.length then some n else Option.none

/-- The ENC_SET selectors by name, in the order of R44. -/
def encSetNames : List String := ["CMD", "WAKE", "STX", "CRC_HI", "CRC_LO", "CRC_AUTO"]

/-- `RD_REG s`. -/
def asmRdReg (cs : List Char) : Option Instr :=
  (selectorNumber (regSelNames.map (·.1)) cs).bind fun k => (regSelNames[k]?).map fun p => .rdReg p.2

/-- `ENC_SET s, d`, and `ENC_SET CRC_AUTO`, which takes no data operand. -/
def asmEncSet : List (List Char) → Option Instr
  | [s] => (selectorNumber encSetNames s).bind fun k => if k = 5 then some .encSetCrcAuto else Option.none
  | [s, d] =>
    (selectorNumber encSetNames s).bind fun k =>
      (byteOperand d).bind fun b =>
        match k with
        | 0 => some (.encSetCmd b)
        | 1 => some (.encSetWake b)
        | 2 => some (.encSetStx b)
        | 3 => some (.encSetCrcHi b)
        | 4 => some (.encSetCrcLo b)
        | _ => Option.none
  | _ => Option.none

/-- An operation with one number operand. -/
def asmByte (mk : Byte → Instr) : List (List Char) → Option Instr
  | [d] => (byteOperand d).map mk
  | _ => Option.none

/-- One operation from its mnemonic and its operands; "An operation with no operand takes none". -/
def asmOperation (m : String) (ops : List (List Char)) : Option Instr :=
  match m, ops with
  | "NOP", [] => some .nop
  | "RST", [] => some .rst
  | "CRC_CLR", [] => some .crcClr
  | "CRC_BYTE", ops => asmByte .crcByte ops
  | "CRC_READ", [] => some .crcRead
  | "CFG_WR", ops => asmByte .cfgWr ops
  | "FR_RESET", [] => some .frReset
  | "FR_BYTE", ops => asmByte .frByte ops
  | "FR_END", [] => some .frEnd
  | "RD_REG", [s] => asmRdReg s
  | "RD_DATA", ops => asmByte .rdData ops
  | "ENC_CLR", [] => some .encClr
  | "ENC_SET", ops => asmEncSet ops
  | "ENC_PUSH", ops => asmByte .encPush ops
  | "ENC_GO", [] => some .encGo
  | "CLASSIFY", ops => asmByte .classify ops
  | _, _ => Option.none

/-- The operands of `ENCODE cmd, [p0, …], …`: the command, the payload, and the operands after it. -/
def encodeOperands (cs : List Char) : Option (Byte × List Byte × List (List Char)) :=
  let before := cs.takeWhile (· != '[')
  let inside := (cs.dropWhile (· != '[')).drop 1
  let after := (inside.dropWhile (· != ']')).drop 1
  match operandTexts before, operandTexts after with
  | [cmd, []], [] :: rest =>
    (byteOperand cmd).bind fun c =>
      (allSome ((operandTexts (inside.takeWhile (· != ']'))).map byteOperand)).map fun p => (c, p, rest)
  | _, _ => Option.none

/-- One pseudo-operation from its mnemonic and the text after it (R52). -/
def asmPseudo (m : String) (cs : List Char) : Option (List Instr) :=
  match m with
  | "CRC16" => (allSome ((operandTexts cs).map byteOperand)).map crc16Ops
  | "DECODE" => (allSome ((operandTexts cs).map byteOperand)).map decodeOps
  | "ENCODE" =>
    (encodeOperands cs).bind fun (c, p, rest) =>
      match rest.map byteOperand with
      | [some w, some t] => some (encodeOps c p w t)
      | _ => Option.none
  | "ENCODE_CRC" =>
    (encodeOperands cs).bind fun (c, p, rest) =>
      match rest with
      | [crc] => (wordOperand crc).map (encodeCrcOps c p 1 1)
      | _ => Option.none
  | _ => Option.none

/-- One line of assembler text: the operations it stands for, none for a line that is empty or only a comment ("Comments
start with `;`"), and a rejection for any other text. -/
def assembleLine (line : String) : Option (List Instr) :=
  let text := trimBlanks (line.toList.takeWhile (· != ';'))
  if text = [] then some []
  else
    let mnemonic := String.ofList (text.takeWhile (fun c => !isBlank c))
    let rest := text.dropWhile (fun c => !isBlank c)
    match asmOperation mnemonic (operandTexts rest) with
    | some i => if i.wellFormed then some [i] else Option.none
    | Option.none => asmPseudo mnemonic rest

/-- A program text, line by line. -/
def assemble (lines : List String) : Option (List Instr) := (allSome (lines.map assembleLine)).map List.flatten

end Sys2Proof.Machine
end

