-- ==== Sys2Proof/Tests/Slice0.lean ====
section
/-! SUPPORT. Tests and witnesses. The expected results are those of spec/95_test_vectors.md (named by their ids), of the
worked words of spec/30_encoding.md, or computed by hand from the rule named beside them. A theorem witness_<Name> shows
states and operands that meet the hypotheses of Obligations.<Name>, clause by clause. -/

namespace Sys2Proof.Tests

open Sys2Proof Sys2Proof.Machine

set_option Elab.async false

/-! ## Helpers -/

/-- The state after a program of operation words; the state itself where the machine stops. -/
def after (ws : List OpWord) (s : State) : State :=
  match runSteps ws.length (s.issue ws) with
  | .next t => t
  | .fault _ => s
  | .refused _ => s

/-- The responses to a program from reset, in order, without the NONEs. -/
def answers (ws : List OpWord) : List Response :=
  ((after ws .reset).responses.filter fun r => r != .none).reverse

/-- A machine with a catalogue. -/
def withKnown (l : List Byte) : State := { State.reset with catalogue := some l }

/-- FAULT is set by a programmer error (vector N9: ENC_SET STX, 0). -/
def faulted : State := after [0xC200] .reset

/-- A whole-buffer decode of `02 F0 01 4D 6D 0A 03` stopped after some bytes. -/
def buffered (n : Nat) : State :=
  after ([0x7002, 0x70F0, 0x7001, 0x704D, 0x706D, 0x700A, 0x7003].take n) .reset

/-- The same in streaming. -/
def streaming (n : Nat) : State :=
  after (0x5005 :: [0x7002, 0x70F0, 0x7001, 0x704D, 0x706D, 0x700A, 0x7003].take n) .reset

/-- Streaming, out of synchronisation (vector F33). -/
def hunting : State := after [0x5005, 0x7003] .reset

/-- Whole-buffer decode, after an error (vector F34). -/
def discarding : State := after [0x7041] .reset

/-- The outcome is a next state that passes a check. -/
def nextWith (o : StepResult) (check : State → Bool) : Bool :=
  match o with
  | .next t => check t
  | .fault _ => false
  | .refused _ => false

theorem exists_next {o : StepResult} {check : State → Bool} (h : nextWith o check = true) :
    ∃ t, o = .next t ∧ check t = true := by
  cases o with
  | next t => exact ⟨t, rfl, h⟩
  | fault _ => cases h
  | refused _ => cases h

theorem completes {o : StepResult} (h : nextWith o (fun _ => true) = true) : ∃ t, o = .next t :=
  (exists_next h).imp fun _ h => h.1

theorem eq_next {o : StepResult} {t : State} (h : nextWith o (fun u => decide (u = t)) = true) : o = .next t := by
  obtain ⟨u, ho, hu⟩ := exists_next h
  rw [ho, of_decide_eq_true hu]

/-! ## WellFormed, and the decoding of every constructor (30_encoding.md R43, R48) -/

theorem test_illFormed_rdData : (Instr.rdData 0xFF).wellFormed = false ∧ (Instr.rdData 0xFE).wellFormed = true := by
  decide

theorem test_illFormed_refused :
    decode (encode (.rdData 0xFF)) = .illegal .rdDataOperand ∧ assembleLine "RD_DATA 255" = none := by decide +kernel

theorem test_decode_crc :
    decode 0b0010000000000000 = .legal .crcClr ∧ decode 0b0011000011110000 = .legal (.crcByte 0xF0)
    ∧ decode 0b0100000000000000 = .legal .crcRead := by decide

theorem test_decode_control :
    decode 0b0000000000000000 = .legal .nop ∧ decode 0b0001000000000000 = .legal .rst
    ∧ decode 0b0101000000000101 = .legal (.cfgWr 0x05) ∧ decode 0b1001000100000000 = .legal (.rdReg .errcode)
    ∧ decode 0b1010000000000011 = .legal (.rdData 3) ∧ decode 0b1111000011110000 = .legal (.classify 0xF0) := by decide

theorem test_decode_framer :
    decode 0b0110000000000000 = .legal .frReset ∧ decode 0b0111000011111111 = .legal (.frByte 0xFF)
    ∧ decode 0b1000000000000000 = .legal .frEnd := by decide

theorem test_decode_encoder :
    decode 0b1011000000000000 = .legal .encClr ∧ decode 0b1100000011110000 = .legal (.encSetCmd 0xF0)
    ∧ decode 0b1100000100000000 = .legal (.encSetWake 0) ∧ decode 0b1100001000000010 = .legal (.encSetStx 2)
    ∧ decode 0b1100001101101101 = .legal (.encSetCrcHi 0x6D) ∧ decode 0b1100010000001010 = .legal (.encSetCrcLo 0x0A)
    ∧ decode 0b1100010100000000 = .legal .encSetCrcAuto ∧ decode 0b1101000001001101 = .legal (.encPush 0x4D)
    ∧ decode 0b1110000000000000 = .legal .encGo := by decide

/-- The illegal words of 95_test_vectors.md section 6, each from reset: ERR(E_ILLEGAL_OP), FAULT and FAULTCODE. -/
theorem test_illegal_words :
    ([0x0001, 0x1100, 0x2001, 0x3100, 0x40FF, 0x5800, 0x6001, 0x7100, 0x8010, 0x9001, 0xA0FF, 0xA100, 0xB001,
        0xC600, 0xC501, 0xCF00, 0xD100, 0xE001, 0xF100] : List OpWord).map (fun w => after [w] .reset)
    = List.replicate 19 { State.reset with
        blk := { cfg := 0x07, fault := true, faultcode := 0x0B }, responses := [.err 0x0B] } := by decide +kernel

theorem test_decodeTableWord :
    decodeTableWord 16 0x70FF = some (.frByte 0xFF) ∧ decodeTableWord 8 0x0000 = some .nop
    ∧ decodeTableWord 16 0xA0FF = none ∧ decodeTableWord 32 0 = none := by decide

theorem test_withFetchWord : step (State.reset.withFetchWord 16 0x9200)
    = .next { State.reset with responses := [.byte 0x07] } := eq_next (by decide +kernel)

/-! ## One step of each operation -/

/-- R93, under FAULT (vector N9). -/
theorem test_nop : exec .nop faulted = .next { faulted with responses := [.none, .err 0x0A] } :=
  eq_next (by decide +kernel)

/-- Vector N9: RST leaves FAULT. -/
theorem test_rst : after [0x1000] faulted = { State.reset with responses := [.none, .err 0x0A] } := by decide +kernel

/-- R61. -/
theorem test_crcClr : (after [0x30F0, 0x3001, 0x304D, 0x2000] .reset).cu = .clear := by decide +kernel

/-- Program P1, step 6. -/
theorem test_crcByte : exec (.crcByte 0x00) { State.reset with cu := { ph := .eOdd, acc := 0xF001, hold := 0x4D } }
    = .next { State.reset with cu := { ph := .eEven, acc := 0x6D0A, hold := 0x00 }, responses := [.none] } :=
  eq_next (by decide +kernel)

/-- Program P1: reading does not end the input. -/
theorem test_crcRead : answers [0x2000, 0x30F0, 0x3001, 0x304D, 0x4000, 0x3000, 0x4000] = [.word 0x6D0A, .word 0x6E3A] := by
  decide +kernel

/-- Vector K11. -/
theorem test_cfgWr : answers [0x50FD, 0x9200, 0x5000, 0x9200, 0x5007, 0x9200] = [.byte 0x05, .byte 0x00, .byte 0x07] := by
  decide +kernel

/-- Vector F26: a BUFMODE change discards the partial frame. -/
theorem test_cfgWr_discards : (after [0x5005] (buffered 3)).fd = .reset := by decide +kernel

/-- Vector F27. -/
theorem test_frReset : (after [0x6000] (buffered 3)).fd = .reset := by decide +kernel

/-- Vector F16, bytes 6 and 8: E_CRC, then 0x02 starts the next frame. -/
theorem test_frByte_crc :
    ((after [0x700B] (streaming 5)).fd.state, (after [0x700B, 0x7003, 0x7002] (streaming 5)).fd.state) = (.hunt, .stx) := by
  decide +kernel

/-- Vector F23: a refused 0xFF is re-examined as a wakeup byte. -/
theorem test_frByte_reexamined : ((after [0x5005, 0x7002, 0x70FF] (withKnown [0xF0])).fd.state,
    (after [0x5005, 0x7002, 0x70FF] (withKnown [0xF0])).fd.wakeCnt) = (.wakeup, 1) := by decide +kernel

/-- Vectors F8 and F9: a truncated and an empty buffer. -/
theorem test_frEnd : (after [0x8000] (buffered 5)).responses.head? = some (.err 0x07)
    ∧ (after [0x8000] .reset).responses = [.err 0x01] := by decide +kernel

/-- Vector F20: STATUS 0x83 in LEN, in a frame. -/
theorem test_rdReg : (after [0x9000] (streaming 2)).responses.head? = some (.byte 0x83) := by decide +kernel

/-- Vector F31: RXBUF beyond FD.len keeps the earlier frame's bytes. -/
theorem test_rdData : (after [0x8000, 0x7002, 0x70F7, 0x7000, 0x70F7, 0x7000, 0x7003, 0x8000, 0xA000] (buffered 7)).responses.take 2
    = [.byte 0x4D, .frameOk] := by decide +kernel

/-- R86. -/
theorem test_encClr : (after [0xC0F0, 0xC100, 0xC202, 0xC312, 0xD04D, 0xB000] .reset).en = .reset := by decide +kernel

/-- Vector N6: the command byte is checked by ENC_GO only. -/
theorem test_encSetCmd : answers [0xC07F, 0xE000, 0xC080, 0xE000]
    = [.err 0x02, .bytes [0xFF, 0x02, 0x80, 0x00, 0x80, 0x00, 0x03]] := by decide +kernel

/-- Vector N2: no wakeup byte and two STX bytes. -/
theorem test_encSetWake_encSetStx : answers [0xC0F7, 0xC100, 0xC202, 0xE000]
    = [.bytes [0x02, 0x02, 0xF7, 0x00, 0xF7, 0x00, 0x03]] := by decide +kernel

/-- Vector N9: the programmer error of a zero STX count. -/
theorem test_encSetStx_zero : answers [0xC200, 0x9000, 0x9B00, 0xE000, 0x9F00]
    = [.err 0x0A, .byte 0x20, .byte 0x0A, .err 0x0C, .byte 0x01] := by decide +kernel

/-- Vector N5: an explicit CRC, checked, sent unchecked, and dropped. -/
theorem test_encSetCrc : answers [0xC0F0, 0xD04D, 0xC312, 0xC434, 0xE000, 0x5003, 0xE000, 0xC500, 0xE000]
    = [.err 0x08, .bytes [0xFF, 0x02, 0xF0, 0x01, 0x4D, 0x12, 0x34, 0x03],
       .bytes [0xFF, 0x02, 0xF0, 0x01, 0x4D, 0x6D, 0x0A, 0x03]] := by decide +kernel

/-- R87: CRC_AUTO keeps EN.crc_x. -/
theorem test_encSetCrcAuto : ((after [0xC36D, 0xC40A, 0xC500] .reset).en.crcX, (after [0xC36D, 0xC500] .reset).en.crcV)
    = (0x6D0A, false) := by decide +kernel

/-- Vector N10, its last push, on an encoder that holds 255 bytes. -/
theorem test_encPush_overflow :
    exec (.encPush 0xFF) { State.reset with en := { En.reset with len := 0xFF } }
      = .next { State.reset with
          en := { En.reset with len := 0xFF }, blk := { cfg := 0x07, fault := true, faultcode := 0x09 }
          responses := [.err 0x09] } := eq_next (by decide +kernel)

/-- Vectors N1 and N7. -/
theorem test_encGo : answers [0xB000, 0xC0F0, 0xD04D, 0xE000, 0xE000]
      = [.bytes [0xFF, 0x02, 0xF0, 0x01, 0x4D, 0x6D, 0x0A, 0x03], .bytes [0xFF, 0x02, 0xF0, 0x01, 0x4D, 0x6D, 0x0A, 0x03]]
    ∧ (after [0xC0F0, 0xE000] (withKnown [0x83])).responses = [.err 0x03, .none] := by decide +kernel

/-- Vectors K1 to K9. -/
theorem test_classify : answers [0xF000, 0xF002, 0xF07F, 0xF080, 0xF0C3, 0xF0C4, 0xF0C5, 0xF0F0, 0xF0FF]
    = [.byte 0x00, .byte 0x00, .byte 0x00, .byte 0x03, .byte 0x03, .byte 0x00, .byte 0x03, .byte 0x03, .byte 0x03] := by
  decide +kernel

/-- Vector K10. -/
theorem test_classify_catalogue : (after [0xF080, 0xF083, 0xF0C4, 0xF0F0] (withKnown [0x83, 0xF0])).responses
    = [.byte 0x03, .byte 0x00, .byte 0x03, .byte 0x01] := by decide +kernel

/-- Vector X1: the second illegal word keeps FAULTCODE, and RST clears it. -/
theorem test_fault_sequence : answers [0xC600, 0x0001, 0x9B00, 0x2000, 0x4000, 0xA000, 0x9000, 0x1000, 0x9000]
    = [.err 0x0B, .err 0x0B, .byte 0x0B, .err 0x0C, .err 0x0C, .byte 0x00, .byte 0x20, .byte 0x00] := by decide +kernel

/-! ## The checksum -/

/-- T-CRC-TRACE, rows 0, 1 and 14. -/
theorem test_crcBit : crcBit 0xF001 false = 0x6007 ∧ crcBit 0x6007 true = 0xC00F ∧ crcBit 0xDB40 false = 0x3685 := by
  decide

/-- Vectors C1 to C18 by length. -/
theorem test_crc16_vectors :
    [[], [0xFF], [0x12, 0x34], [0xF0, 0x01, 0x4D], [0x00, 0x00, 0x01], [0x80, 0x00, 0x00], [0x83, 0x02, 0x00, 0x80],
      [0x00, 0x01, 0x00, 0x00], [0xB1, 0x03, 0x00], [0xFF, 0xFF, 0xFF, 0xFF], [0x83, 0x02, 0x74, 0x01]].map crc16
    = [0x0000, 0x0000, 0x1234, 0x6D0A, 0x0100, 0x8009, 0xBF17, 0x8017, 0xA600, 0x8029, 0x0414] := by decide +kernel

/-- The other reading of the loop's end (vectors C7, C9, C11 and C14). -/
theorem test_crc16_other_reading :
    [[0xF0, 0x01, 0x4D], [0x00, 0x00, 0x01], [0x83, 0x02, 0x00, 0x80], [0xB1, 0x03, 0x00]].map
      (crc16With .halfWordThenZeroWord) = [0x6E3A, 0x8603, 0xBF17, 0xD40A]
    ∧ engFinalWith .halfWordThenZeroWord { ph := .eOdd, acc := 0xF001, hold := 0x4D } = 0x6E3A := by decide +kernel

/-! ## Host-side text (30_encoding.md R51, R52) -/

theorem test_assemble :
    assembleLine "RD_REG RX_CRC_HI ; read back" = some [.rdReg .rxCrcHi] ∧ assembleLine "ENC_SET WAKE, 0xFF" = some [.encSetWake 0xFF]
    ∧ assembleLine "ENC_SET CRC_AUTO" = some [.encSetCrcAuto] ∧ assembleLine "FR_BYTE 256" = none
    ∧ assembleLine "; a comment" = some [] ∧ assembleLine "NOP 1" = none := by decide +kernel

theorem test_pseudo :
    assembleLine "CRC16 0xF0, 1, 0x4D" = some [.crcClr, .crcByte 0xF0, .crcByte 1, .crcByte 0x4D, .crcRead]
    ∧ encodeOps 0x83 [0x00] 1 2 = [.encClr, .encSetCmd 0x83, .encSetStx 2, .encPush 0, .encGo]
    ∧ decodeOps [0x02] = [.frByte 2, .frEnd] := by decide +kernel

/-! ## Witnesses: words and single operations -/

/-- For each OP of 12 zero bits, a word with the same OP that is not the operation's (the EncodedExactly clauses of NOP, RST,
CRC_CLR, CRC_READ, FR_RESET, FR_END, ENC_CLR and ENC_GO). -/
theorem witness_EncodedExactly :
    (([0x0000, 0x1000, 0x2000, 0x4000, 0x6000, 0x8000, 0xB000, 0xE000] : List OpWord).all fun w =>
      decide ((w ||| 0x001) >>> 12 = w >>> 12 ∧ w ||| 0x001 ≠ w ∧ (w ||| 0xFFF) >>> 12 = w >>> 12 ∧ w ||| 0xFFF ≠ w)) = true := by
  decide

/-- For each OP with IMM only, words whose SEL is not zero (the EncodedWithImm clauses of CRC_BYTE, CFG_WR, FR_BYTE, ENC_PUSH
and CLASSIFY). -/
theorem witness_EncodedWithImm :
    (([0x3000, 0x5000, 0x7000, 0xD000, 0xF000] : List OpWord).all fun w =>
      decide ((w ||| 0x100) >>> 12 = w >>> 12 ∧ ((w ||| 0x100) >>> 8) &&& 0xF ≠ 0
        ∧ (w ||| 0xFFF) >>> 12 = w >>> 12 ∧ ((w ||| 0xFFF) >>> 8) &&& 0xF ≠ 0)) = true := by decide

/-- Both sides of the FAULT gate (the hypothesis of every operation's rule). -/
theorem witness_gate : State.reset.blk.fault = false ∧ faulted.blk.fault = true := by decide +kernel

theorem witness_CfgWrWritesThreeBitsAndResetsTheDecoderOnAModeChange :
    (buffered 3).blk.fault = false ∧ (buffered 3).blk.cfg.getLsbD 1 = (0x02#8).getLsbD 1
    ∧ (buffered 3).blk.cfg.getLsbD 1 ≠ (0xFD#8).getLsbD 1 := by decide +kernel

theorem witness_RdRegAnswersTheSelectedRegister :
    (0x9001#16) >>> 12 = 0x9 ∧ (0x9001#16) &&& 0xFF ≠ 0 ∧ (0x9FFF#16) >>> 12 = 0x9 ∧ (0x9FFF#16) &&& 0xFF ≠ 0 := by decide

theorem witness_RdDataAnswersTheIndexedByte :
    (0x00#8) ≠ 0xFF ∧ (0xFE#8) ≠ 0xFF ∧ (0xA100#16) >>> 12 = 0xA ∧ ((0xA100#16) >>> 8) &&& 0xF ≠ 0
    ∧ (0xA0FF#16) >>> 12 = 0xA ∧ (0xA0FF#16) &&& 0xFF = 0xFF := by decide

/-- Legacy bytes, uncatalogued bytes and known bytes at the edges of the ranges. -/
theorem witness_ClassifyAnswersTheClassOfACommandByte :
    ¬ Extended 0x7F ∧ ¬ Extended 0xC4 ∧ (Extended 0x80 ∧ ¬ Known (some [0xF0]) 0x80) ∧ Known (some [0xF0]) 0xF0
    ∧ Known none 0x80 ∧ Known none 0xFF := by
  simp [Extended, Known]

theorem witness_CrcOfLongInputsFeedsPairsThenTheTail : ([0x4D] : List Byte) ≠ [] ∧ ([0x00, 0x80] : List Byte) ≠ [] := by
  decide

/-- One input of each length class of R56. -/
theorem witness_CrcIsARemainderOverGf2 :
    ([0xFF] : List Byte).length < 2 ∧ ([0x12, 0x34] : List Byte).length = 2
    ∧ (3 ≤ ([0xF0, 0x01, 0x4D] : List Byte).length ∧ ([0xF0, 0x01, 0x4D] : List Byte).length % 2 = 1)
    ∧ (4 ≤ ([0x83, 0x02, 0x00, 0x80] : List Byte).length ∧ ([0x83, 0x02, 0x00, 0x80] : List Byte).length % 2 = 0) := by
  decide

theorem witness_EngineStateAfterAnySequence :
    ([] : List Byte).length % 2 = 0 ∧ ([0x00, 0x80] : List Byte) ≠ [] ∧ ([0x00, 0x80] : List Byte).length % 2 = 0 := by
  decide

theorem witness_Crc16ExpansionAnswersTheReferenceChecksum : (buffered 3).blk.fault = false := by decide +kernel

/-! ## Witnesses: the decoder -/

/-- Outside a frame and inside one; the other bytes at both sides of the markers. -/
theorem witness_WakeupStateRule :
    (State.reset.blk.fault = false ∧ State.reset.fd.state = .wakeup)
    ∧ ((after [0x70FF] .reset).blk.fault = false ∧ (after [0x70FF] .reset).fd.state = .wakeup
        ∧ (after [0x70FF] .reset).fd.inframe = true)
    ∧ (0x00#8 ≠ 0xFF ∧ 0x00#8 ≠ 0x02) ∧ (0xFE#8 ≠ 0xFF ∧ 0xFE#8 ≠ 0x02) ∧ (0x03#8 ≠ 0xFF ∧ 0x03#8 ≠ 0x02) := by
  decide +kernel

theorem witness_HuntStateRule : hunting.blk.fault = false ∧ hunting.fd.state = .hunt := by decide +kernel

theorem witness_StxAndCommandByteRule :
    (buffered 1).blk.fault = false ∧ (buffered 1).fd.state = .stx ∧ (0x7F#8 ≠ 0x02 ∧ ¬ Extended 0x7F)
    ∧ ((after [0x7002] (withKnown [0x83])).blk.fault = false ∧ (after [0x7002] (withKnown [0x83])).fd.state = .stx
        ∧ Extended 0x80 ∧ ¬ Known (withKnown [0x83]).catalogue 0x80 ∧ Known (withKnown [0x83]).catalogue 0x83)
    ∧ Known (buffered 1).catalogue 0xFF := by
  refine ⟨by decide +kernel, by decide +kernel, ⟨by decide, by simp [Extended]⟩, ⟨by decide +kernel, by decide +kernel,
    by simp [Extended], by simp [Known, withKnown], by simp [Known, withKnown, Extended]⟩, ?_⟩
  rw [show (buffered 1).catalogue = none by decide +kernel]
  simp [Known, Extended]

theorem witness_LenStateRule : (buffered 2).blk.fault = false ∧ (buffered 2).fd.state = .len := by decide +kernel

/-- At index 0, and at the last index of the longest payload. -/
theorem witness_DataStateRule :
    ((buffered 3).blk.fault = false ∧ (buffered 3).fd.state = .data ∧ (buffered 3).fd.rxbuf.wf = true
      ∧ (buffered 3).fd.dataCnt.toNat < (buffered 3).fd.len.toNat)
    ∧ (let s : State := { State.reset with fd := { Fd.reset with state := .data, inframe := true, len := 0xFF, dataCnt := 0xFE } };
        s.blk.fault = false ∧ s.fd.state = .data ∧ s.fd.rxbuf.wf = true ∧ s.fd.dataCnt.toNat < s.fd.len.toNat) := by
  decide +kernel

theorem witness_CrcHiStateRule : (buffered 4).blk.fault = false ∧ (buffered 4).fd.state = .crcHi := by decide +kernel

/-- The wrong low byte 0x0B and the right one 0x0A, with VERIFY and without. -/
theorem witness_CrcLoStateRule :
    ((buffered 5).blk.fault = false ∧ (buffered 5).fd.state = .crcLo ∧ (buffered 5).blk.cfg.getLsbD 0 = true
      ∧ be16 0x6D 0x0B ≠ engFinal (buffered 5).fd.eng ∧ be16 0x6D 0x0A = engFinal (buffered 5).fd.eng)
    ∧ (after [0x5006] (buffered 5)).fd.state = .crcLo ∧ (after [0x5006] (buffered 5)).blk.cfg.getLsbD 0 = false := by
  decide +kernel

theorem witness_EtxStateRule :
    ((buffered 6).blk.fault = false ∧ (buffered 6).fd.state = .etx ∧ (buffered 6).blk.cfg.getLsbD 1 = true)
    ∧ ((streaming 6).blk.fault = false ∧ (streaming 6).fd.state = .etx ∧ (streaming 6).blk.cfg.getLsbD 1 = false)
    ∧ 0x04#8 ≠ 0x03 := by decide +kernel

theorem witness_DoneAndDiscardStateRules :
    ((buffered 7).blk.fault = false ∧ (buffered 7).fd.state = .done)
    ∧ (discarding.blk.fault = false ∧ discarding.fd.state = .discard) := by decide +kernel

/-- In state DATA at the last index, and in another state. -/
theorem witness_FrByteCompletesAndChangesFdOnly :
    (let s : State := { State.reset with fd := { Fd.reset with state := .data, dataCnt := 0xFE } };
        s.blk.fault = false ∧ ¬ (s.fd.state = .data ∧ s.fd.dataCnt = 0xFF))
    ∧ ((buffered 4).blk.fault = false ∧ ¬ ((buffered 4).fd.state = .data ∧ (buffered 4).fd.dataCnt = 0xFF)) := by
  decide +kernel

/-- A whole-buffer error; a streaming error that hunts; and two that start the next frame, with 0xFF and with 0x02. -/
theorem witness_EveryFrByteErrorTakesTheDecoderErrorAction :
    (State.reset.blk.cfg.getLsbD 1 = true
      ∧ ∃ t, exec (.frByte 0x41) State.reset = .next t ∧ decide (t.responses = .err 0x01 :: State.reset.responses) = true)
    ∧ ((streaming 5).blk.cfg.getLsbD 1 = false
      ∧ ∃ t, exec (.frByte 0x0B) (streaming 5) = .next t ∧ decide (t.responses = .err 0x04 :: (streaming 5).responses) = true)
    ∧ (∃ t, exec (.frByte 0xFF) (streaming 6) = .next t ∧ decide (t.responses = .err 0x05 :: (streaming 6).responses) = true)
    ∧ (∃ t, exec (.frByte 0x02) (streaming 6) = .next t ∧ decide (t.responses = .err 0x05 :: (streaming 6).responses) = true) :=
  ⟨⟨rfl, exists_next (by decide +kernel)⟩, ⟨by decide +kernel, exists_next (by decide +kernel)⟩,
    exists_next (by decide +kernel), exists_next (by decide +kernel)⟩

/-- FR_END in streaming, and in WAKEUP, HUNT, DONE, DISCARD and every state of a frame. -/
theorem witness_FrEndReportsTheOutcomeOfTheBuffer :
    ((streaming 3).blk.fault = false ∧ (streaming 3).blk.cfg.getLsbD 1 = false)
    ∧ (State.reset.blk.fault = false ∧ State.reset.blk.cfg.getLsbD 1 = true ∧ State.reset.fd.state = .wakeup)
    ∧ ((buffered 7).blk.fault = false ∧ (buffered 7).blk.cfg.getLsbD 1 = true ∧ (buffered 7).fd.state = .done)
    ∧ (discarding.blk.fault = false ∧ discarding.blk.cfg.getLsbD 1 = true ∧ discarding.fd.state = .discard)
    ∧ [1, 2, 3, 4, 5, 6].map (fun n => (buffered n).fd.state) = [.stx, .len, .data, .crcHi, .crcLo, .etx]
    ∧ [1, 2, 3, 4, 5, 6].map (fun n => (buffered n).blk) = List.replicate 6 State.reset.blk
    ∧ (let s : State := { State.reset with fd := { Fd.reset with state := .hunt } };
        s.blk.fault = false ∧ s.blk.cfg.getLsbD 1 = true ∧ s.fd.state = .hunt)
    ∧ faulted.blk.fault = true := by decide +kernel

theorem witness_WakeupAndStxCountsSaturate :
    (State.reset.blk.fault = false ∧ State.reset.fd.state = .wakeup ∧ State.reset.fd.inframe = false
      ∧ State.reset.fd.rxbuf.wf = true ∧ 0 < 300)
    ∧ ((buffered 1).blk.fault = false ∧ (buffered 1).fd.state = .stx) := by decide +kernel

/-- Vector P4's stray bytes before its second frame; the shortest and the longest payload. -/
theorem witness_StreamResynchronisesOnTheNextFrame :
    (hunting.blk.fault = false ∧ hunting.blk.cfg.getLsbD 1 = false ∧ hunting.fd.state = .hunt ∧ hunting.fd.rxbuf.wf = true)
    ∧ (∀ x ∈ ([0x03, 0x55, 0x00, 0xFE] : List Byte), x ≠ 0xFF ∧ x ≠ 0x02) ∧ Known none 0xF7 ∧ Known none 0xFF
    ∧ ([] : List Byte).length ≤ 255 ∧ (List.replicate 255 0x02#8).length ≤ 255 ∧ (0x01#8 : Byte) ≠ 0 ∧ (0xFF#8 : Byte) ≠ 0 :=
  ⟨by decide +kernel, by simp, by simp [Known, Extended], by simp [Known, Extended], by decide, by rw [List.length_replicate], by decide, by decide⟩

/-- Vectors S5, S6 and S7, and a command byte 0xFF with LEN 2 and with LEN 255. -/
theorem witness_DamagedFramesAreRejected :
    (State.reset.blk.fault = false ∧ State.reset.blk.cfg.getLsbD 0 = true ∧ State.reset.blk.cfg.getLsbD 1 = true)
    ∧ State.reset.fd.Fresh ∧ Known State.reset.catalogue 0xF0 ∧ Known State.reset.catalogue 0xFF
    ∧ ([0x4D] : List Byte).length ≤ 255 ∧ (0x04#8 : Byte) ≠ 0x03 ∧ be16 0x6D 0x0B ≠ crc16 [0xF0, 0x01, 0x4D]
    ∧ (0xF0#8 : Byte) ≠ 0xFF ∧ ([0x00, 0x00] : List Byte).length = 0x02 ∧ (List.replicate 255 0x00#8).length = 0xFF :=
  ⟨by decide, ⟨rfl, rfl, rfl⟩, by simp [Known, Extended, State.reset], by simp [Known, Extended, State.reset], by decide,
    by decide, by decide +kernel, by decide, by decide, by rw [List.length_replicate]⟩

/-! ## Witnesses: the encoder -/

theorem witness_EncSetSetsTheSelectedInput :
    (0xC600#16 >>> 12 = 0xC ∧ 6 ≤ ((0xC600#16 >>> 8) &&& 0xF).toNat) ∧ (0xCFFF#16 >>> 12 = 0xC ∧ 6 ≤ ((0xCFFF#16 >>> 8) &&& 0xF).toNat)
    ∧ (0xC501#16 >>> 12 = 0xC ∧ (0xC501#16 >>> 8) &&& 0xF = 5 ∧ 0xC501#16 &&& 0xFF ≠ 0)
    ∧ State.reset.blk.fault = false ∧ (0x01#8 : Byte) ≠ 0 := by decide

/-- The encoder full, with room for one byte more, and empty. -/
theorem witness_EncPushAppendsOneByte :
    (let s : State := { State.reset with en := { En.reset with len := 0xFF } }; s.blk.fault = false ∧ s.en.len = 0xFF)
    ∧ (let s : State := { State.reset with en := { En.reset with len := 0xFE } };
        s.blk.fault = false ∧ s.en.len ≠ 0xFF ∧ s.en.txbuf.wf = true)
    ∧ (State.reset.blk.fault = false ∧ State.reset.en.len ≠ 0xFF ∧ State.reset.en.txbuf.wf = true) := by decide +kernel

/-- A legacy command, an uncatalogued one, a CRC mismatch (vector N5), and a frame (vectors N1 and N4). -/
theorem witness_EncGoAnswersTheFrameOrItsFirstError :
    ¬ Extended (after [0xC07F] .reset).en.cmd
    ∧ (Extended (after [0xC0F0] (withKnown [0x83])).en.cmd
        ∧ ¬ Known (after [0xC0F0] (withKnown [0x83])).catalogue (after [0xC0F0] (withKnown [0x83])).en.cmd)
    ∧ (let s := after [0xC0F0, 0xD04D, 0xC312, 0xC434] .reset;
        s.blk.fault = false ∧ knownCmd s.catalogue s.en.cmd = true ∧ s.en.crcV = true ∧ s.blk.cfg.getLsbD 2 = true
        ∧ s.en.crcX ≠ crc16 (s.en.cmd :: s.en.len :: s.en.txbuf.firstBytes s.en.len.toNat))
    ∧ (let s := after [0xC0F0, 0xD04D] .reset;
        s.blk.fault = false ∧ knownCmd s.catalogue s.en.cmd = true ∧ s.en.crcV = false)
    ∧ (let s := after [0xC0F0, 0xD04D, 0xC36D, 0xC40A] .reset;
        s.blk.fault = false ∧ knownCmd s.catalogue s.en.cmd = true ∧ s.en.crcV = true
        ∧ s.en.crcX = crc16 (s.en.cmd :: s.en.len :: s.en.txbuf.firstBytes s.en.len.toNat)) := by
  refine ⟨?_, ⟨?_, ?_⟩, by decide +kernel, by decide +kernel, by decide +kernel⟩
  · rw [← isExtended_iff]; decide +kernel
  · rw [← isExtended_iff]; decide +kernel
  · rw [← knownCmd_iff]; decide +kernel

/-- The known command 0xF0 of `witness_EncGoAnswersTheFrameOrItsFirstError` answers BYTES (vector N1). -/
theorem witness_FrameLayoutByOffsets :
    let s := after [0xC0F0, 0xD04D] .reset
    s.blk.fault = false ∧ s.en.stx ≠ 0 ∧ s.en.crcV = false ∧ exec .encGo s = .next { s with
      responses := .bytes [0xFF, 0x02, 0xF0, 0x01, 0x4D, 0x6D, 0x0A, 0x03] :: s.responses } :=
  ⟨by decide +kernel, by decide +kernel, by decide +kernel, eq_next (by decide +kernel)⟩

theorem witness_EncoderLengthCountsThePushes :
    State.reset.blk.fault = false ∧ ([] : List Byte).length ≤ 255 ∧ (List.replicate 255 0x4D#8).length ≤ 255 := by decide +kernel

/-- The shortest and the longest payload, each end of the counts. -/
theorem witness_FrameRoundTrip :
    State.reset.blk.fault = false ∧ State.reset.fd.Fresh ∧ State.reset.blk.cfg.getLsbD 1 = true
    ∧ Known State.reset.catalogue 0x80 ∧ Known State.reset.catalogue 0xFF
    ∧ ([] : List Byte).length ≤ 255 ∧ (List.replicate 255 0xFF#8).length ≤ 255 ∧ (0x01#8 : Byte) ≠ 0 ∧ (0xFF#8 : Byte) ≠ 0 :=
  ⟨rfl, ⟨rfl, rfl, rfl⟩, rfl, by simp [Known, Extended, State.reset], by simp [Known, Extended, State.reset], by decide, by rw [List.length_replicate],
    by decide, by decide⟩

/-! ## Witnesses: words performed -/

theorem witness_DecodeOfEncodeIsTheOperation : (Instr.rdData 0x00).wellFormed = true ∧ (Instr.rdData 0xFE).wellFormed = true
    ∧ (Instr.frByte 0xFF).wellFormed = true := by decide

theorem witness_EncodeOfDecodeIsTheWord : decode 0xA0FE = .legal (.rdData 0xFE) ∧ decode 0xC500 = .legal .encSetCrcAuto := by
  decide

/-- One word of each of the five cases. -/
theorem witness_IllegalWordsAreExactlyTheListedOnes :
    IllegalByTable 0x0001 ∧ IllegalByTable 0x3100 ∧ IllegalByTable 0x9001 ∧ IllegalByTable 0xA0FF ∧ IllegalByTable 0xC501
    ∧ IllegalByTable 0xC600 ∧ ¬ IllegalByTable 0xC500 := by
  simp [IllegalByTable]

theorem witness_ChecksAreMadeInOrder :
    IllegalByTable 0x2001 ∧ (¬ IllegalByTable 0x2000 ∧ faulted.blk.fault = true ∧ (0x2000#16 >>> 12).toNat ∉ [0x0, 0x1, 0x9, 0xA])
    ∧ (¬ IllegalByTable 0xA0FE ∧ (0xA0FE#16 >>> 12).toNat ∈ [0x0, 0x1, 0x9, 0xA]) ∧ State.reset.blk.fault = false := by
  refine ⟨by simp [IllegalByTable], ⟨by simp [IllegalByTable], by decide +kernel, by decide⟩,
    ⟨by simp [IllegalByTable], by decide⟩, rfl⟩

theorem witness_OnlyFourOperationsExecuteUnderFault : (Instr.rdData 0xFE).wellFormed = true ∧ faulted.blk.fault = true := by
  decide +kernel

theorem witness_StepRunsTheNextIssuedWord :
    ((Instr.frByte 0x02).wellFormed = true
      ∧ (State.reset.issue [0x7002, 0x8000]).issued = encode (.frByte 0x02) :: [0x8000])
    ∧ ((State.reset.issue [0xC600]).issued = 0xC600 :: [] ∧ decode 0xC600 = .illegal .encSetOperand)
    ∧ State.reset.issued = [] := by decide

theorem witness_StepsRunTheIssuedProgramInOrder :
    (∀ i ∈ decodeOps [0x02, 0xF7], i.wellFormed = true) ∧ State.reset.issued = [] := by decide

theorem witness_EachOperationRespondsExactlyOnce :
    (State.reset.issue [0x7002]).issued = 0x7002 :: [] ∧ ∃ t, step (State.reset.issue [0x7002]) = .next t :=
  ⟨rfl, completes (by decide +kernel)⟩

/-! ## Witnesses: the whole machine -/

/-- Every family completes somewhere, with a CFG_WR that keeps BUFMODE among them. -/
theorem witness_OnlyTheListedElementsAreWritten :
    IllegalByTable 0xC600 ∧ (Instr.cfgWr 0x02).wellFormed = true
    ∧ (∃ t, exec (.cfgWr 0x02) (buffered 3) = .next t
        ∧ decide (t.blk.cfg.getLsbD 1 = (buffered 3).blk.cfg.getLsbD 1) = true)
    ∧ (∃ t, exec (.frByte 0x4D) (buffered 3) = .next t) ∧ (∃ t, exec .frEnd (buffered 7) = .next t)
    ∧ (∃ t, exec (.encPush 0x4D) State.reset = .next t) ∧ State.reset.en.txbuf.wf = true
    ∧ 0 ≠ (after [0xD04D] .reset).en.len.toNat :=
  ⟨by simp [IllegalByTable], rfl, exists_next (by decide +kernel), completes (by decide +kernel), completes (by decide +kernel),
    completes (by decide +kernel), rfl, by decide +kernel⟩

theorem witness_ReadingOperationsAreRepeatable : (Instr.rdData 0x00).wellFormed = true ∧ Instr.encGo.wellFormed = true := by decide

/-- Under FAULT RST and another word; without FAULT the three programmer errors. -/
theorem witness_FaultStaysUntilRst :
    (faulted.blk.fault = true ∧ (∃ t, step (faulted.issue [0x1000]) = .next t) ∧ ∃ t, step (faulted.issue [0xC600]) = .next t)
    ∧ (State.reset.blk.fault = false ∧ (after [0xC600] .reset).blk.fault = true ∧ (after [0xC200] .reset).blk.fault = true)
    ∧ (∃ t, step (State.issue { State.reset with en := { En.reset with len := 0xFF } } [0xD000]) = .next t ∧ t.blk.fault = true)
    ∧ State.reset.fd.errcode.toNat ≤ 7 ∧ (after [0xC600] .reset).responses = .err 0x0B :: State.reset.responses
    ∧ (after [0xC200] .reset).responses = .err 0x0A :: State.reset.responses :=
  ⟨⟨by decide +kernel, completes (by decide +kernel), completes (by decide +kernel)⟩, by decide +kernel,
    exists_next (check := fun t => t.blk.fault) (by decide +kernel), by decide +kernel, by decide +kernel, by decide +kernel⟩

/-- FR_BYTE and FR_END write it, and FR_RESET clears it. -/
theorem witness_ErrcodeIsWrittenOnlyByDecoderErrors :
    (∃ t, exec (.frByte 0x41) State.reset = .next t ∧ decide (t.fd.errcode ≠ State.reset.fd.errcode) = true)
    ∧ (∃ t, exec .frEnd State.reset = .next t ∧ decide (t.fd.errcode ≠ State.reset.fd.errcode) = true)
    ∧ (∃ t, exec .frReset discarding = .next t ∧ decide (t.fd.errcode ≠ discarding.fd.errcode) = true) :=
  ⟨exists_next (by decide +kernel), exists_next (by decide +kernel), exists_next (by decide +kernel)⟩

theorem witness_StateNeverHoldsCmdBetweenOperations :
    ((buffered 1).issue [0x70F0]).fd.state ≠ .cmd ∧ ∃ t, step ((buffered 1).issue [0x70F0]) = .next t :=
  ⟨by decide +kernel, completes (by decide +kernel)⟩

/-- The sampling points: FR_BYTE at the CRC low byte and away from it, with and without an error; FR_END; ENC_GO. -/
theorem witness_SettingsAreReadAtTheirSamplingPoints :
    ((buffered 5).blk.fault = false ∧ (∃ t, exec (.frByte 0x0B) (buffered 5) = .next t)
      ∧ (0x03#8).getLsbD 1 = (buffered 5).blk.cfg.getLsbD 1 ∧ (0x03#8).getLsbD 0 = (buffered 5).blk.cfg.getLsbD 0)
    ∧ ((∃ t, exec (.frByte 0x4D) (buffered 3) = .next t ∧ decide (t.responses = .none :: (buffered 3).responses) = true)
      ∧ (buffered 3).fd.state ≠ .etx ∧ (buffered 3).fd.state ≠ .crcLo)
    ∧ ((∃ t, exec .frEnd (buffered 7) = .next t) ∧ (0x02#8).getLsbD 1 = (buffered 7).blk.cfg.getLsbD 1)
    ∧ (∃ t, exec .encGo State.reset = .next t) ∧ (0x04#8).getLsbD 2 = State.reset.blk.cfg.getLsbD 2 :=
  ⟨⟨by decide +kernel, completes (by decide +kernel), by decide +kernel, by decide +kernel⟩,
    ⟨exists_next (by decide +kernel), by decide +kernel, by decide +kernel⟩,
    ⟨completes (by decide +kernel), by decide +kernel⟩, completes (by decide +kernel), by decide⟩

/-- Two states that agree on BLK and the catalogue and on one unit only. -/
theorem witness_UnitsDoNotInterfere :
    let s := State.reset
    let s1 := after [0x7002, 0xC0F0] .reset
    let s2 := after [0x3001, 0xC0F0] .reset
    let s3 := after [0x3001, 0x7002] .reset
    (s1.blk = s.blk ∧ s1.catalogue = s.catalogue ∧ s1.cu = s.cu ∧ s1 ≠ s ∧ ∃ t, exec (.crcByte 1) s = .next t)
    ∧ (s2.blk = s.blk ∧ s2.catalogue = s.catalogue ∧ s2.fd = s.fd ∧ s2 ≠ s ∧ ∃ t, exec (.frByte 1) s = .next t)
    ∧ (s3.blk = s.blk ∧ s3.catalogue = s.catalogue ∧ s3.en = s.en ∧ s3 ≠ s ∧ ∃ t, exec (.encPush 1) s = .next t) :=
  ⟨⟨by decide +kernel, by decide +kernel, by decide +kernel, by decide +kernel, completes (by decide +kernel)⟩,
    ⟨by decide +kernel, by decide +kernel, by decide +kernel, by decide +kernel, completes (by decide +kernel)⟩,
    ⟨by decide +kernel, by decide +kernel, by decide +kernel, by decide +kernel, completes (by decide +kernel)⟩⟩

/-! ## Witnesses: states that meet the invariant -/

/-- The decoder at the CRC low byte of the frame `02 F0 00 F0 00 03`. -/
def atCrcLo : State :=
  { State.reset with
    fd := { state := .crcLo, inframe := true, wakeCnt := 0, stxCnt := 1, cmd := 0xF0, len := 0, dataCnt := 0, rxbuf := []
            crcRx := 0xF000, crcCalc := 0, eng := { ph := .e2, acc := 0xF000, hold := 0 }, frameValid := false, errcode := 0 }
    responses := [.none, .none, .none, .none] }

/-- The same frame received (vector F2). -/
def received : State :=
  { State.reset with
    fd := { state := .wakeup, inframe := false, wakeCnt := 0, stxCnt := 1, cmd := 0xF0, len := 0, dataCnt := 0, rxbuf := []
            crcRx := 0xF000, crcCalc := 0xF000, eng := { ph := .e2, acc := 0xF000, hold := 0 }, frameValid := true, errcode := 0 }
    responses := [.frameOk, .none, .none, .none, .none, .none, .none] }

/-- Both are reached from reset. -/
theorem test_states_reached :
    after [0x7002, 0x70F0, 0x7000, 0x70F0] .reset = atCrcLo
    ∧ after [0x7002, 0x70F0, 0x7000, 0x70F0, 0x7000, 0x7003, 0x8000] .reset = received := by decide +kernel

theorem blk_reset_inv : Blk.reset.Inv := ⟨by decide, fun _ => rfl, fun h => by cases h⟩

theorem en_reset_inv : En.reset.Inv := ⟨by decide, rfl, fun _ _ => rfl⟩

theorem atCrcLo_inv : atCrcLo.Inv where
  blk := blk_reset_inv
  cu := engine_clear_inv
  en := en_reset_inv
  fd := by constructor <;> simp [atCrcLo, State.reset, FdState.afterCmd, Engine.Inv, Fd.CrcTracksSpan] <;> decide

theorem received_inv : received.Inv where
  blk := blk_reset_inv
  cu := engine_clear_inv
  en := en_reset_inv
  fd := by
    constructor <;> simp [received, State.reset, FdState.afterCmd, Engine.Inv, Fd.CrcTracksSpan]
    decide

theorem witness_ComputedCrcIsThatOfTheSpan : atCrcLo.Inv ∧ atCrcLo.blk.fault = false ∧ atCrcLo.fd.state = .crcLo :=
  ⟨atCrcLo_inv, rfl, rfl⟩

/-- Each kind of operation on a received frame: FR_BYTE, FR_END, a CFG_WR with each BUFMODE, and another. -/
theorem witness_FrameRegistersLastUntilTheNextFrame :
    received.Inv ∧ received.blk.fault = false ∧ received.fd.frameValid = true
    ∧ ∀ i ∈ ([.frByte 0x02, .frByte 0x41, .frEnd, .cfgWr 0x07, .cfgWr 0x05, .frReset, .rst, .encGo] : List Instr),
        i.wellFormed = true ∧ ∃ t, exec i received = .next t := by
  refine ⟨received_inv, rfl, rfl, ?_⟩
  have all : ∀ i ∈ ([.frByte 0x02, .frByte 0x41, .frEnd, .cfgWr 0x07, .cfgWr 0x05, .frReset, .rst, .encGo] : List Instr),
      i.wellFormed = true ∧ nextWith (exec i received) (fun _ => true) = true := by decide +kernel
  exact fun i hi => ⟨(all i hi).1, completes (all i hi).2⟩

theorem witness_InvariantKeptByEveryStep :
    (atCrcLo.issue [0x7000]).Inv ∧ (∃ t, step (atCrcLo.issue [0x7000]) = .next t)
    ∧ (received.issue [0xC600]).Inv ∧ ∃ t, step (received.issue [0xC600]) = .next t :=
  ⟨⟨atCrcLo_inv.blk, atCrcLo_inv.cu, atCrcLo_inv.fd, atCrcLo_inv.en⟩, completes (by decide +kernel),
    ⟨received_inv.blk, received_inv.cu, received_inv.fd, received_inv.en⟩, completes (by decide +kernel)⟩

/-- The two stops, in states that no run reaches, and a state that meets the invariant. -/
theorem witness_StopsOnlyInStatesNoRunReaches :
    exec (.frByte 0) { State.reset with fd := { Fd.reset with state := .data, dataCnt := 0xFF } } = .fault .noSuchBufferByte
    ∧ exec .frEnd { State.reset with fd := { Fd.reset with state := .cmd } } = .refused .cmdBetweenOperations
    ∧ (atCrcLo.issue [0x8000]).Inv :=
  ⟨rfl, rfl, ⟨atCrcLo_inv.blk, atCrcLo_inv.cu, atCrcLo_inv.fd, atCrcLo_inv.en⟩⟩

end Sys2Proof.Tests
end

