-- ==== Sys2Proof/Proofs/Scope.lean ====
section
/-! The rules of 00_scope.md on issuing words and answering them: which operation a word stands for, what a step does with
the oldest issued word, and that every operation answers once. -/

namespace Sys2Proof

/-! ## The word of an operation -/

/-- An operation without operands is read back from its word. -/
@[simp] theorem exactWord_makeWord (op : BitVec 4) (i : Instr) : exactWord (makeWord op 0#4 0#8) i = .legal i := by
  simp [exactWord]

/-- An operation with IMM only is read back from its word. -/
@[simp] theorem immWord_makeWord (op : BitVec 4) (d : Byte) (mk : Byte → Instr) :
    immWord (makeWord op 0#4 d) mk = .legal (mk d) := by
  simp [immWord]

@[simp] theorem rdRegWord_makeWord (op : BitVec 4) (r : RegSel) :
    rdRegWord (makeWord op r.toBits 0#8) = .legal (.rdReg r) := by
  simp [rdRegWord]

theorem rdDataWord_makeWord (op : BitVec 4) {k : Byte} (hk : k ≠ 0xFF#8) :
    rdDataWord (makeWord op 0#4 k) = .legal (.rdData k) := by
  simp [rdDataWord, hk]

theorem rdData_wellFormed_iff {k : Byte} : (Instr.rdData k).wellFormed = true ↔ k ≠ 0xFF#8 := by
  simp [Instr.wellFormed]

/-- Decoding undoes encoding on the operations a word can carry (30_encoding.md R43, R48). -/
theorem decode_encode {i : Instr} (hi : i.wellFormed = true) : decode (encode i) = .legal i := by
  cases i with
  | nop | rst | crcClr | crcRead | frReset | frEnd | encClr | encGo => simp [decode, encode]
  | crcByte | cfgWr | frByte | encPush | classify => simp [decode, encode]
  | rdReg r => simp [decode, encode]
  | rdData k => simp [decode, encode, rdDataWord_makeWord _ (rdData_wellFormed_iff.1 hi)]
  | encSetCmd | encSetWake | encSetStx | encSetCrcHi | encSetCrcLo | encSetCrcAuto =>
    simp [decode, encode, encSetWord]

end Sys2Proof

namespace Sys2Proof.Machine

open Sys2Proof

/-! ## What a step does with the oldest issued word -/

theorem perform_of_legal {w : OpWord} {i : Instr} (h : decode w = .legal i) (s : State) : perform w s = exec i s := by
  simp [perform, h]

theorem perform_of_illegal {w : OpWord} {why : IllegalWord} (h : decode w = .illegal why) (s : State) :
    perform w s = illegalOp s := by
  simp [perform, h]

theorem perform_encode {i : Instr} (hi : i.wellFormed = true) (s : State) : perform (encode i) s = exec i s :=
  perform_of_legal (decode_encode hi) s

/-- A step performs the oldest issued word, in the state without it. -/
theorem step_of_issued {s : State} {w : OpWord} {rest : List OpWord} (h : s.issued = w :: rest) :
    step s = perform w { s with issued := rest } := by
  simp [step, performIssued, h]

theorem step_of_idle {s : State} (h : s.issued = []) : step s = .next s := by
  simp [step, performIssued, h]

/-- A word issued in front of the others is the one the next step performs, and the step finds the others issued. -/
theorem step_issue_singleton (s : State) (w : OpWord) : step (s.issue [w]) = perform w s :=
  step_of_issued (State.issue_issued s [w])

/-- The fetch word of an operation is its own word, already 16 bits wide. -/
theorem withFetchWord_encode (s : State) (i : Instr) : s.withFetchWord 16 (encode i).toNat = s.issue [encode i] := by
  simp [State.withFetchWord, Nat.mod_eq_of_lt (encode i).isLt]

/-- Settles O47: the oldest issued word is decoded, and each of the decoder's two answers has its rule. -/
theorem stepRunsTheNextIssuedWord : Obligations.StepRunsTheNextIssuedWord := by
  unfold Obligations.StepRunsTheNextIssuedWord
  intro s
  refine ⟨fun i rest hi hs => ?legal, fun w why rest hs hw => ?illegal, step_of_idle, fun i hi => ?fetched⟩
  case legal => rw [step_of_issued hs, perform_encode hi]
  case illegal =>
    rw [step_of_issued hs, perform_of_illegal hw, illegalOp_eq]
    rfl
  case fetched => rw [withFetchWord_encode, step_issue_singleton, perform_encode hi]

/-! ## Every operation answers once -/

/-- Between s and t exactly one response was given, no issued word was touched, and the catalogue stayed. -/
structure State.AnsweredOnce (s t : State) : Prop where
  response : ∃ r, t.responses = r :: s.responses
  issued : t.issued = s.issued
  catalogue : t.catalogue = s.catalogue

/-- The outcome of an operation begun in s: where it completes, it has answered once. -/
def AnswersOnce (s : State) (o : StepResult) : Prop := ∀ t, o = .next t → s.AnsweredOnce t

/-- Answering from a state that differs from s in the units of the block only. -/
theorem AnswersOnce.answer {s u : State} {r : Response} (hr : u.responses = s.responses) (hi : u.issued = s.issued)
    (hc : u.catalogue = s.catalogue) : AnswersOnce s (answer u r) := by
  intro t ht
  obtain rfl := answer_next_iff.1 ht
  exact ⟨⟨r, by rw [State.respond_responses, hr]⟩, hi, hc⟩

/-- The FAULT gate gives the one answer itself, or leaves it to the operation. -/
theorem AnswersOnce.unlessFaulted {s : State} {o : StepResult} (ho : AnswersOnce s o) :
    AnswersOnce s (unlessFaulted s o) := by
  intro t ht
  obtain ⟨-, rfl⟩ | ⟨-, hot⟩ := unlessFaulted_next_iff.1 ht
  · exact ⟨⟨_, State.respond_responses ..⟩, rfl, rfl⟩
  · exact ho t hot

theorem progError_answersOnce (e : ErrCode) (s : State) : AnswersOnce s (progError e s) := .answer rfl rfl rfl

theorem finishFd_answersOnce (s : State) (out : Fd × Response) : AnswersOnce s (finishFd s out) := .answer rfl rfl rfl

theorem finishEn_answersOnce (s : State) (en : En) : AnswersOnce s (finishEn s en) := .answer rfl rfl rfl

theorem execRdData_answersOnce (k : Byte) (s : State) : AnswersOnce s (execRdData k s) := by
  unfold execRdData
  split
  · exact progError_answersOnce .illegalOp s
  · exact .answer rfl rfl rfl

/-- An index outside RXBUF stops FR_BYTE; otherwise the decoder gives one response. -/
theorem execFrByte_answersOnce (d : Byte) (s : State) : AnswersOnce s (execFrByte d s) := by
  refine .unlessFaulted ?_
  split
  · exact fun _ h => nomatch h
  · exact finishFd_answersOnce _ _

/-- A buffer's end gives one response, or is refused in state CMD; in stream mode the answer is NONE. -/
theorem execFrEnd_answersOnce (s : State) : AnswersOnce s (execFrEnd s) := by
  refine .unlessFaulted ?_
  split
  · split
    · exact finishFd_answersOnce _ _
    · exact fun _ h => nomatch h
  · exact .answer rfl rfl rfl

theorem execEncSetStx_answersOnce (d : Byte) (s : State) : AnswersOnce s (execEncSetStx d s) := by
  refine .unlessFaulted ?_
  split
  · exact progError_answersOnce .encStx0 s
  · exact finishEn_answersOnce _ _

theorem execEncPush_answersOnce (d : Byte) (s : State) : AnswersOnce s (execEncPush d s) := by
  refine .unlessFaulted ?_
  split
  · exact progError_answersOnce .encOverflow s
  · exact finishEn_answersOnce _ _

/-- Every operation answers once (00_scope.md R11): the ones with a check of their own by the lemmas above, the others at
the end of their single path, behind the FAULT gate or without it. -/
theorem exec_answersOnce (i : Instr) (s : State) : AnswersOnce s (exec i s) := by
  cases i with
  | nop | rst | rdReg => exact .answer rfl rfl rfl
  | crcClr | crcByte | crcRead | cfgWr | encGo | classify => exact .unlessFaulted (.answer rfl rfl rfl)
  | frReset => exact .unlessFaulted (finishFd_answersOnce _ _)
  | encClr | encSetCmd | encSetWake | encSetCrcHi | encSetCrcLo | encSetCrcAuto =>
    exact .unlessFaulted (finishEn_answersOnce _ _)
  | rdData k => exact execRdData_answersOnce k s
  | frByte d => exact execFrByte_answersOnce d s
  | frEnd => exact execFrEnd_answersOnce s
  | encSetStx d => exact execEncSetStx_answersOnce d s
  | encPush d => exact execEncPush_answersOnce d s

/-- Every word answers once, an illegal one with the programmer error. -/
theorem perform_answersOnce (w : OpWord) (s : State) : AnswersOnce s (perform w s) := by
  cases h : decode w with
  | legal i =>
    rw [perform_of_legal h]
    exact exec_answersOnce i s
  | illegal why =>
    rw [perform_of_illegal h]
    exact progError_answersOnce .illegalOp s

/-- Settles O49: the step takes the word from the list, and performing it answers once. -/
theorem eachOperationRespondsExactlyOnce : Obligations.EachOperationRespondsExactlyOnce := by
  unfold Obligations.EachOperationRespondsExactlyOnce
  intro s t w rest hs ht
  rw [step_of_issued hs] at ht
  obtain ⟨hresponse, hissued, hcatalogue⟩ := perform_answersOnce w _ t ht
  exact ⟨hresponse, hissued, hcatalogue⟩

end Sys2Proof.Machine
end

/-! The rules of 10_state.md: what a CRC engine holds after any byte sequence, what each operation can write of the state,
FAULT and FD.errcode, the encoder's buffer, and the invariant of the machine. -/

namespace Sys2Proof

/-! ## Words and the operations they carry (30_encoding.md R41 to R48) -/

theorem opField_toNat (w : OpWord) : (w >>> 12).toNat = (opField w).toNat := by
  have := w.isLt
  simp only [opField, BitVec.extractLsb'_toNat, BitVec.toNat_ushiftRight, Nat.shiftRight_eq_div_pow]
  omega

theorem selField_toNat (w : OpWord) : ((w >>> 8) &&& 0xF).toNat = (selField w).toNat := by
  simp [selField, Nat.and_two_pow_sub_one_eq_mod _ 4]

theorem immField_toNat (w : OpWord) : (w &&& 0xFF).toNat = (immField w).toNat := by
  simp [immField, Nat.and_two_pow_sub_one_eq_mod _ 8]

/-- A word is made of its fields, one hypothesis for each. -/
theorem makeWord_of_fields {w : OpWord} {op sel : BitVec 4} {imm : Byte} (hop : opField w = op)
    (hsel : selField w = sel) (himm : immField w = imm) : makeWord op sel imm = w := by
  rw [← hop, ← hsel, ← himm, makeWord_fields]

/-- Bits 11:0 of a word are zero when SEL and IMM are. -/
theorem operandBits_eq_zero {w : OpWord} (hsel : selField w = 0) (himm : immField w = 0) : w &&& 0x0FFF = 0 := by
  have hs : (selField w).toNat = 0 := congrArg BitVec.toNat hsel
  have hi : (immField w).toNat = 0 := congrArg BitVec.toNat himm
  have hmask : w.toNat &&& 4095 = w.toNat % 4096 := Nat.and_two_pow_sub_one_eq_mod _ 12
  simp only [selField, immField, BitVec.extractLsb'_toNat, Nat.shiftRight_eq_div_pow] at hs hi
  apply BitVec.eq_of_toNat_eq
  change w.toNat &&& 4095 = 0
  omega

@[simp] theorem regSel_toBits_ofBits (s : BitVec 4) : (RegSel.ofBits s).toBits = s := by
  revert s
  decide

theorem exactWord_legal_iff {w : OpWord} {i j : Instr} :
    exactWord w i = .legal j ↔ selField w = 0 ∧ immField w = 0 ∧ i = j := by
  unfold exactWord
  split <;> simp_all

theorem immWord_legal_iff {w : OpWord} {mk : Byte → Instr} {j : Instr} :
    immWord w mk = .legal j ↔ selField w = 0 ∧ mk (immField w) = j := by
  unfold immWord
  split <;> simp_all

theorem rdRegWord_legal_iff {w : OpWord} {j : Instr} :
    rdRegWord w = .legal j ↔ immField w = 0 ∧ .rdReg (.ofBits (selField w)) = j := by
  unfold rdRegWord
  split <;> simp_all

theorem rdDataWord_legal_iff {w : OpWord} {j : Instr} :
    rdDataWord w = .legal j ↔ selField w = 0 ∧ immField w ≠ 0xFF#8 ∧ .rdData (immField w) = j := by
  unfold rdDataWord
  split <;> simp_all

/-- A 4-bit field is known by its number. -/
theorem eq_ofNat_of_toNat {f : BitVec 4} {n : Nat} (h : f.toNat = n) : f = BitVec.ofNat 4 n := by
  rw [← h, BitVec.ofNat_toNat, BitVec.setWidth_eq]

/-- The word of the operation that an ENC_SET word carries. -/
theorem encode_of_encSetWord {w : OpWord} {j : Instr} (hop : opField w = 0xC) (h : encSetWord w = .legal j) :
    encode j = w := by
  unfold encSetWord at h
  split at h
  case h_6 hsel =>
    split at h
    · next himm =>
      obtain rfl := Decoded.legal.inj h
      exact makeWord_of_fields hop (eq_ofNat_of_toNat hsel) himm
    · cases h
  case h_7 => cases h
  all_goals
    next hsel =>
    obtain rfl := Decoded.legal.inj h
    exact makeWord_of_fields hop (eq_ofNat_of_toNat hsel) rfl

/-- Encoding undoes decoding: the word a legal word's operation is encoded as is that word (30_encoding.md R43). -/
theorem encode_of_decode {w : OpWord} {i : Instr} (h : decode w = .legal i) : encode i = w := by
  unfold decode at h
  split at h
  case h_10 hop =>
    obtain ⟨himm, rfl⟩ := rdRegWord_legal_iff.1 h
    exact makeWord_of_fields (eq_ofNat_of_toNat hop) (regSel_toBits_ofBits _).symm himm
  case h_11 hop =>
    obtain ⟨hsel, -, rfl⟩ := rdDataWord_legal_iff.1 h
    exact makeWord_of_fields (eq_ofNat_of_toNat hop) hsel rfl
  case h_13 hop => exact encode_of_encSetWord (eq_ofNat_of_toNat hop) h
  case h_16 =>
    obtain ⟨hsel, rfl⟩ := immWord_legal_iff.1 h
    have hlt := (opField w).isLt
    have hop : (opField w).toNat = 15 := by grind
    exact makeWord_of_fields (eq_ofNat_of_toNat hop) hsel rfl
  case h_4 hop | h_6 hop | h_8 hop | h_14 hop =>
    obtain ⟨hsel, rfl⟩ := immWord_legal_iff.1 h
    exact makeWord_of_fields (eq_ofNat_of_toNat hop) hsel rfl
  all_goals
    next hop =>
    obtain ⟨hsel, himm, rfl⟩ := exactWord_legal_iff.1 h
    exact makeWord_of_fields (eq_ofNat_of_toNat hop) hsel himm

/-- A word whose OP stands for an operation without operands. -/
theorem decode_of_exactOp {w : OpWord} (hop : (opField w).toNat ∈ [0x0, 0x1, 0x2, 0x4, 0x6, 0x8, 0xB, 0xE]) :
    ∃ i, decode w = exactWord w i := by
  simp only [List.mem_cons, List.not_mem_nil, or_false] at hop
  rcases hop with hop | hop | hop | hop | hop | hop | hop | hop <;>
    simp only [decode, hop] <;> exact ⟨_, rfl⟩

/-- A word whose OP stands for an operation with IMM only. -/
theorem decode_of_immOp {w : OpWord} (hop : (opField w).toNat ∈ [0x3, 0x5, 0x7, 0xD, 0xF]) :
    ∃ mk, decode w = immWord w mk := by
  simp only [List.mem_cons, List.not_mem_nil, or_false] at hop
  rcases hop with hop | hop | hop | hop | hop <;> simp only [decode, hop] <;> exact ⟨_, rfl⟩

theorem encSetWord_illegal {w : OpWord}
    (h : (selField w).toNat ≥ 6 ∨ ((selField w).toNat = 5 ∧ (immField w).toNat ≠ 0)) :
    encSetWord w = .illegal .encSetOperand := by
  unfold encSetWord
  split
  case h_6 hsel =>
    refine if_neg fun himm => ?_
    have hzero : (immField w).toNat = 0 := congrArg BitVec.toNat himm
    omega
  case h_7 => rfl
  all_goals omega

/-- The words of the five cases of 30_encoding.md R48 are rejected. -/
theorem illegal_of_table {w : OpWord} (h : Machine.IllegalByTable w) : ∃ why, decode w = .illegal why := by
  unfold Machine.IllegalByTable at h
  simp only [opField_toNat, selField_toNat, immField_toNat] at h
  obtain ⟨hop, hbits⟩ | ⟨hop, hsel⟩ | ⟨hop, himm⟩ | ⟨hop, hdata⟩ | ⟨hop, hset⟩ := h
  · obtain ⟨i, hi⟩ := decode_of_exactOp hop
    exact ⟨_, hi.trans (if_neg fun hz => hbits (operandBits_eq_zero hz.1 hz.2))⟩
  · obtain ⟨mk, hmk⟩ := decode_of_immOp hop
    exact ⟨_, hmk.trans (if_neg fun hz => hsel (by simp [hz]))⟩
  · have hrd : decode w = rdRegWord w := by simp only [decode, hop]
    exact ⟨_, hrd.trans (if_neg fun hz => himm (by simp [hz]))⟩
  · have hrd : decode w = rdDataWord w := by simp only [decode, hop]
    refine ⟨_, hrd.trans (if_neg fun hz => ?_)⟩
    obtain hsel | himm := hdata
    · exact hsel (by simp [hz.1])
    · exact hz.2 (BitVec.eq_of_toNat_eq himm)
  · have henc : decode w = encSetWord w := by simp only [decode, hop]
    exact ⟨_, henc.trans (encSetWord_illegal hset)⟩

/-! ## Kinds of operations -/

/-- The operations that read and write nothing (20_memory.md R33). -/
def Instr.readsOnly : Instr → Bool
  | .nop | .rdReg _ | .rdData _ | .classify _ | .crcRead | .encGo => true
  | _ => false

/-- The operations that are performed under FAULT too (60_exceptions.md R106). -/
def Instr.allowedUnderFault : Instr → Bool
  | .nop | .rst | .rdReg _ | .rdData _ => true
  | _ => false

end Sys2Proof

namespace Sys2Proof.Machine

open Sys2Proof

/-! ## A CRC engine after a byte sequence (10_state.md R22) -/

theorem even_of_cons_cons {x y : Byte} {rest : List Byte} (h : (x :: y :: rest).length % 2 = 0) : rest.length % 2 = 0 := by
  rwa [List.length_cons, List.length_cons, Nat.add_assoc, Nat.add_mod_right] at h

/-- Whole pairs keep an engine in phase EEVEN and fold their words into the accumulator. -/
theorem foldl_engFeed_pairs : ∀ (mid : List Byte) (a : Word), mid.length % 2 = 0 →
    mid.foldl engFeed { ph := .eEven, acc := a, hold := 0x00 }
      = { ph := .eEven, acc := (pairWords mid).foldl crcstep a, hold := 0x00 }
  | [], _, _ => rfl
  | [_], _, h => absurd h (by simp)
  | x :: y :: rest, a, h => foldl_engFeed_pairs rest (crcstep a (be16 x y)) (even_of_cons_cons h)

/-- After the seed, one pair or more lead to phase EEVEN. -/
theorem engFeedAll_pairs {mid : List Byte} (x y : Byte) (hne : mid ≠ []) (heven : mid.length % 2 = 0) :
    engFeedAll (x :: y :: mid) = { ph := .eEven, acc := (pairWords mid).foldl crcstep (be16 x y), hold := 0x00 } := by
  match mid with
  | [] => exact absurd rfl hne
  | [_] => exact absurd heven (by simp)
  | p :: q :: rest => exact foldl_engFeed_pairs rest (crcstep (be16 x y) (be16 p q)) (even_of_cons_cons heven)

/-- A byte after the seed and any number of pairs is held. -/
theorem engFeedAll_pairs_concat {mid : List Byte} (x y z : Byte) (heven : mid.length % 2 = 0) :
    engFeedAll (x :: y :: (mid ++ [z]))
      = { ph := .eOdd, acc := (pairWords mid).foldl crcstep (be16 x y), hold := z } := by
  rw [← List.cons_append, ← List.cons_append, engFeedAll_concat]
  by_cases hne : mid = []
  · subst hne
    rfl
  · rw [engFeedAll_pairs x y hne heven]
    rfl

/-- Settles O14: the short sequences by evaluation, the others by the number of whole pairs after the seed. -/
theorem engineStateAfterAnySequence : Obligations.EngineStateAfterAnySequence := by
  unfold Obligations.EngineStateAfterAnySequence
  exact ⟨rfl, fun _ => rfl, fun _ _ => rfl, fun x y _ z heven => engFeedAll_pairs_concat x y z heven,
    fun x y _ hne heven => engFeedAll_pairs x y hne heven⟩

/-! ## The engine computes the reference checksum (40_crc.md R54, R60) -/

/-- The words fed after the seed for whole pairs: the pairs, then a zero word. -/
theorem wordsAfterSeed_even : ∀ mid : List Byte, mid.length % 2 = 0 → wordsAfterSeed mid = pairWords mid ++ [0x0000]
  | [], _ => rfl
  | [_], h => absurd h (by simp)
  | x :: y :: rest, h => congrArg (be16 x y :: ·) (wordsAfterSeed_even rest (even_of_cons_cons h))

/-- The words fed after the seed for whole pairs and a byte: the pairs, then a half word. -/
theorem wordsAfterSeed_concat (z : Byte) : ∀ mid : List Byte, mid.length % 2 = 0 →
    wordsAfterSeed (mid ++ [z]) = pairWords mid ++ [be16 z 0x00]
  | [], _ => rfl
  | [_], h => absurd h (by simp)
  | x :: y :: rest, h => congrArg (be16 x y :: ·) (wordsAfterSeed_concat z rest (even_of_cons_cons h))

/-- The loop of R54, standing after the bytes `pre`, feeds the words of the bytes that are left. -/
theorem crc16Loop_eq_foldl (pre rest : List Byte) (fuel : Nat) (num : Word) (hfuel : rest.length < 2 * fuel) :
    crc16Loop .halfWord (pre ++ rest) fuel (pre.length + 1) num = (wordsAfterSeed rest).foldl crcstep num := by
  induction fuel generalizing pre rest num with
  | zero => omega
  | succ fuel ih =>
    match rest with
    | [] | [_] =>
      -- the loop ends with this turn, with or without fuel for another
      cases fuel <;> simp [crc16Loop, wordsAfterSeed]
    | x :: y :: rest =>
      have hnext := ih (pre ++ [x, y]) rest (crcstep num (be16 x y)) (by simp at hfuel; omega)
      simpa [crc16Loop, wordsAfterSeed, Nat.add_assoc] using hnext

/-- The reference checksum of three bytes or more (40_crc.md R55). -/
theorem crc16_eq_foldl {rest : List Byte} (x y : Byte) (hne : rest ≠ []) :
    crc16 (x :: y :: rest) = (wordsAfterSeed rest).foldl crcstep (be16 x y) := by
  have hpos : 0 < rest.length := List.length_pos_iff.2 hne
  rw [← crc16Loop_eq_foldl [x, y] rest (rest.length + 3) (be16 x y) (by omega)]
  simp [crc16, crc16With, pCrcOddTail, hpos]

/-- A byte string is whole pairs, or whole pairs and one byte. -/
theorem even_or_even_concat (l : List Byte) :
    l.length % 2 = 0 ∨ ∃ mid z, l = mid ++ [z] ∧ mid.length % 2 = 0 := by
  rcases List.eq_nil_or_concat l with rfl | ⟨mid, z, rfl⟩
  · exact .inl rfl
  · rcases Nat.mod_two_eq_zero_or_one mid.length with h | h
    · exact .inr ⟨mid, z, List.concat_eq_append, h⟩
    · exact .inl (by simp; omega)

/-- What a fed engine reads as is the reference checksum of the bytes (40_crc.md R60). -/
theorem engFinal_engFeedAll : ∀ b : List Byte, engFinal (engFeedAll b) = crc16 b
  | [] | [_] | [_, _] => rfl
  | x :: y :: c :: rest => by
    have hne : c :: rest ≠ [] := List.cons_ne_nil _ _
    rw [crc16_eq_foldl x y hne]
    obtain heven | ⟨mid, z, hmid, heven⟩ := even_or_even_concat (c :: rest)
    · rw [engFeedAll_pairs x y hne heven, wordsAfterSeed_even _ heven, List.foldl_concat]
      rfl
    · rw [hmid, engFeedAll_pairs_concat x y z heven, wordsAfterSeed_concat z mid heven, List.foldl_concat]
      rfl

/-! ## What an operation can do (10_state.md R26, section 6) -/

/-- The codes of the three programmer errors, the values FAULTCODE can record (60_exceptions.md R101, R102). -/
abbrev IsProgErrorCode (code : Byte) : Prop := code.toNat ∈ [0x09, 0x0A, 0x0B]

/-- The encoder inputs an operation leaves where it answers NONE (42_encoder.md R86 to R88). -/
inductive En.Write (en : En) : Instr → En → Prop
  | clr : Write en .encClr .reset
  | cmd (d : Byte) : Write en (.encSetCmd d) { en with cmd := d }
  | wake (d : Byte) : Write en (.encSetWake d) { en with wake := d }
  | stx {d : Byte} (hd : d ≠ 0) : Write en (.encSetStx d) { en with stx := d }
  | crcHi (d : Byte) : Write en (.encSetCrcHi d) { en with crcX := be16 d (lo8 en.crcX), crcV := true }
  | crcLo (d : Byte) : Write en (.encSetCrcLo d) { en with crcX := be16 (hi8 en.crcX) d, crcV := true }
  | crcAuto : Write en .encSetCrcAuto { en with crcV := false }
  | push (d : Byte) (hroom : en.len ≠ 0xFF#8) :
      Write en (.encPush d) { en with txbuf := en.txbuf.write en.txIndex d, len := en.len + 1 }

/-- Everything a completed operation can have done to the state s it began in. -/
inductive Effect (s : State) : Instr → State → Prop
  | refused {i : Instr} (hi : i.allowedUnderFault = false) (hf : s.blk.fault = true) : Effect s i (s.respond (.err 0x0C))
  | read {i : Instr} {r : Response} (hi : i.readsOnly = true) (hr : ∀ code, r = .err code → ¬ IsProgErrorCode code) :
      Effect s i (s.respond r)
  | badIndex : Effect s (.rdData 0xFF) (s.afterProgError 0x0B)
  | zeroStx (hf : s.blk.fault = false) : Effect s (.encSetStx 0) (s.afterProgError 0x0A)
  | overflow (d : Byte) (hf : s.blk.fault = false) (hfull : s.en.len = 0xFF#8) :
      Effect s (.encPush d) (s.afterProgError 0x09)
  | reset : Effect s .rst (s.resetAction.respond .none)
  | crcClr (hf : s.blk.fault = false) : Effect s .crcClr (State.respond { s with cu := .clear } .none)
  | crcByte (d : Byte) (hf : s.blk.fault = false) :
      Effect s (.crcByte d) (State.respond { s with cu := engFeed s.cu d } .none)
  | cfgWr (d : Byte) (hf : s.blk.fault = false) :
      Effect s (.cfgWr d) (State.respond
        { s with
          blk := { s.blk with cfg := cfgWritten d }
          fd := if bufMode s.blk.cfg = bufMode (cfgWritten d) then s.fd else .reset } .none)
  | frReset (hf : s.blk.fault = false) : Effect s .frReset (State.respond { s with fd := .reset } .none)
  | frByte (d : Byte) (hf : s.blk.fault = false) (hindex : s.fd.indexOutside = false) :
      Effect s (.frByte d) (State.respond { s with fd := (s.fd.onByte s.blk.cfg s.catalogue d).1 }
        (s.fd.onByte s.blk.cfg s.catalogue d).2)
  | streamEnd (hf : s.blk.fault = false) (hbuf : bufMode s.blk.cfg = false) : Effect s .frEnd (s.respond .none)
  | bufferEnd {fd : Fd} {r : Response} (hf : s.blk.fault = false) (hbuf : bufMode s.blk.cfg = true)
      (hend : s.fd.bufferEnd = some (fd, r)) :
      Effect s .frEnd (State.respond { s with fd := { fd with state := .wakeup, inframe := false } } r)
  | encoder {i : Instr} {en : En} (hf : s.blk.fault = false) (hw : s.en.Write i en) :
      Effect s i (State.respond { s with en := en } .none)

theorem effect_of_answer {s t u : State} {i : Instr} {r : Response} (h : answer u r = .next t)
    (he : Effect s i (u.respond r)) : Effect s i t :=
  answer_next_iff.1 h ▸ he

/-- Behind the FAULT gate an operation is refused or has the effect of its own outcome. -/
theorem effect_of_gated {s t : State} {i : Instr} {o : StepResult} (hi : i.allowedUnderFault = false)
    (h : unlessFaulted s o = .next t) (ho : s.blk.fault = false → o = .next t → Effect s i t) : Effect s i t := by
  obtain ⟨hf, rfl⟩ | ⟨hf, hot⟩ := unlessFaulted_next_iff.1 h
  · exact .refused hi hf
  · exact ho hf hot

/-- An operation with a single path behind the FAULT gate. -/
theorem effect_of_gatedAnswer {s t u : State} {i : Instr} {r : Response} (hi : i.allowedUnderFault = false)
    (h : unlessFaulted s (answer u r) = .next t) (he : s.blk.fault = false → Effect s i (u.respond r)) : Effect s i t :=
  effect_of_gated hi h fun hf ho => effect_of_answer ho (he hf)

/-- ENC_GO reports no programmer error (60_exceptions.md R107). -/
theorem En.goResponse_code {cfg code : Byte} {k : Catalogue} {en : En} (h : en.goResponse cfg k = .err code) :
    ¬ IsProgErrorCode code := by
  dsimp only [En.goResponse] at h
  split at h
  · cases h; decide
  · split at h
    · cases h; decide
    · split at h
      · cases h; decide
      · cases h

theorem execRdData_effect {k : Byte} {s t : State} (h : execRdData k s = .next t) : Effect s (.rdData k) t := by
  unfold execRdData at h
  split at h
  · next hk =>
    rw [illegalOp_eq] at h
    cases h
    cases hk
    exact .badIndex
  · exact effect_of_answer h (.read rfl nofun)

theorem execFrByte_effect {d : Byte} {s t : State} (h : execFrByte d s = .next t) : Effect s (.frByte d) t := by
  refine effect_of_gated rfl h fun hf ho => ?_
  split at ho
  · cases ho
  · next hindex => exact effect_of_answer ho (.frByte d hf (Bool.eq_false_iff.2 hindex))

theorem execFrEnd_effect {s t : State} (h : execFrEnd s = .next t) : Effect s .frEnd t := by
  refine effect_of_gated rfl h fun hf ho => ?_
  split at ho
  · next hbuf =>
    split at ho
    · next hend => exact effect_of_answer ho (.bufferEnd hf hbuf hend)
    · cases ho
  · next hbuf => exact effect_of_answer ho (.streamEnd hf (Bool.eq_false_iff.2 hbuf))

theorem execEncSetStx_effect {d : Byte} {s t : State} (h : execEncSetStx d s = .next t) : Effect s (.encSetStx d) t := by
  refine effect_of_gated rfl h fun hf ho => ?_
  split at ho
  · next hd =>
    rw [progError_eq] at ho
    cases ho
    cases hd
    exact .zeroStx hf
  · next hd => exact effect_of_answer ho (.encoder hf (.stx hd))

theorem execEncPush_effect {d : Byte} {s t : State} (h : execEncPush d s = .next t) : Effect s (.encPush d) t := by
  refine effect_of_gated rfl h fun hf ho => ?_
  split at ho
  · next hfull =>
    rw [progError_eq] at ho
    cases ho
    exact .overflow d hf hfull
  · next hroom => exact effect_of_answer ho (.encoder hf (.push d hroom))

/-- Every completed operation has one of the effects. -/
theorem exec_effect {i : Instr} {s t : State} (h : exec i s = .next t) : Effect s i t := by
  cases i with
  | nop | rdReg => exact effect_of_answer h (.read rfl nofun)
  | rst => exact effect_of_answer h .reset
  | classify | crcRead => exact effect_of_gatedAnswer rfl h (fun _ => .read rfl nofun)
  | encGo => exact effect_of_gatedAnswer rfl h (fun _ => .read rfl fun _ => En.goResponse_code)
  | crcClr => exact effect_of_gatedAnswer rfl h .crcClr
  | crcByte d => exact effect_of_gatedAnswer rfl h (.crcByte d)
  | cfgWr d => exact effect_of_gatedAnswer rfl h (.cfgWr d)
  | frReset => exact effect_of_gatedAnswer rfl h .frReset
  | encClr => exact effect_of_gatedAnswer rfl h (.encoder · .clr)
  | encSetCmd d => exact effect_of_gatedAnswer rfl h (.encoder · (.cmd d))
  | encSetWake d => exact effect_of_gatedAnswer rfl h (.encoder · (.wake d))
  | encSetCrcHi d => exact effect_of_gatedAnswer rfl h (.encoder · (.crcHi d))
  | encSetCrcLo d => exact effect_of_gatedAnswer rfl h (.encoder · (.crcLo d))
  | encSetCrcAuto => exact effect_of_gatedAnswer rfl h (.encoder · .crcAuto)
  | rdData k => exact execRdData_effect h
  | frByte d => exact execFrByte_effect h
  | frEnd => exact execFrEnd_effect h
  | encSetStx d => exact execEncSetStx_effect h
  | encPush d => exact execEncPush_effect h

/-- A performed word is legal, with the effect of its operation, or it is illegal and a programmer error (60_exceptions.md
R105, R108). -/
theorem perform_effect {w : OpWord} {s t : State} (h : perform w s = .next t) :
    (∃ i, decode w = .legal i ∧ Effect s i t)
      ∨ ((∃ why, decode w = .illegal why) ∧ t = s.afterProgError 0x0B) := by
  cases hw : decode w with
  | legal i =>
    rw [perform_of_legal hw] at h
    exact .inl ⟨i, rfl, exec_effect h⟩
  | illegal why =>
    rw [perform_of_illegal hw, illegalOp_eq] at h
    cases h
    exact .inr ⟨⟨why, rfl⟩, rfl⟩

/-! ## What the decoder can do with a byte -/

/-- A byte moved the decoder on without an error: the recorded error stays, and the state CMD is not left behind. -/
structure Fd.Progress (fd : Fd) (out : Fd × Response) : Prop where
  errcode : out.1.errcode = fd.errcode
  state : out.1.state ≠ .cmd
  response : out.2 = .none ∨ out.2 = .frameOk

/-- A byte led to an error: its code is answered and recorded, and the state CMD is not left behind (60_exceptions.md R101,
R103). -/
structure Fd.Failed (out : Fd × Response) : Prop where
  response : out.2 = .err out.1.errcode
  code : out.1.errcode.toNat ≤ 7
  state : out.1.state ≠ .cmd

theorem Fd.decodeError_failed {cfg b : Byte} {fd : Fd} {e : ErrCode} {rx : Bool} (he : e.code.toNat ≤ 7) :
    Fd.Failed (fd.decodeError cfg e b rx) := by
  rw [decodeError_eq]
  unfold Fd.afterError
  split_ifs <;> exact ⟨rfl, he, nofun⟩

theorem Fd.takeMarker_cases {fd taken : Fd} {b : Byte} (h : fd.takeMarker b = some taken) :
    taken = { fd with wakeCnt := satInc8 fd.wakeCnt } ∨ taken = { fd with stxCnt := 1, state := .stx } := by
  unfold Fd.takeMarker at h
  split at h
  · exact .inl (Option.some.inj h).symm
  · split at h
    · exact .inr (Option.some.inj h).symm
    · cases h

theorem Fd.onWakeup_outcome (cfg : Byte) {fd : Fd} (b : Byte) (hst : fd.state = .wakeup) :
    fd.Progress (fd.onWakeup cfg b) ∨ Fd.Failed (fd.onWakeup cfg b) := by
  unfold Fd.onWakeup
  split
  · next taken h =>
    obtain rfl | rfl := takeMarker_cases h
    · exact .inl ⟨fd.openFrame_errcode, by simp [hst], .inl rfl⟩
    · exact .inl ⟨fd.openFrame_errcode, nofun, .inl rfl⟩
  · exact .inr (decodeError_failed (by decide))

theorem Fd.hunt_cases (fd : Fd) (b : Byte) :
    fd.hunt b = fd ∨ fd.hunt b = { fd.sof with state := .wakeup, wakeCnt := 1 }
      ∨ fd.hunt b = { fd.sof with state := .stx, stxCnt := 1 } := by
  cases hm : isMarker b
  · exact .inl (hunt_discards hm)
  · obtain rfl | rfl := isMarker_iff.1 hm
    · exact .inr (.inl fd.hunt_wakeup)
    · exact .inr (.inr fd.hunt_stx)

theorem Fd.onHunt_outcome {fd : Fd} (b : Byte) (hst : fd.state = .hunt) : fd.Progress (fd.onHunt b) := by
  unfold Fd.onHunt
  obtain h | h | h := fd.hunt_cases b <;> rw [h]
  · exact ⟨rfl, by simp [hst], .inl rfl⟩
  · exact ⟨rfl, nofun, .inl rfl⟩
  · exact ⟨rfl, nofun, .inl rfl⟩

theorem Fd.onCmd_outcome (cfg : Byte) (k : Catalogue) (fd : Fd) (b : Byte) :
    fd.Progress (fd.onCmd cfg k b) ∨ Fd.Failed (fd.onCmd cfg k b) := by
  unfold Fd.onCmd
  split
  · exact .inr (decodeError_failed (by decide))
  · split
    · exact .inr (decodeError_failed (by decide))
    · exact .inl ⟨rfl, nofun, .inl rfl⟩

theorem Fd.onStx_outcome (cfg : Byte) (k : Catalogue) {fd : Fd} (b : Byte) (hst : fd.state = .stx) :
    fd.Progress (fd.onStx cfg k b) ∨ Fd.Failed (fd.onStx cfg k b) := by
  unfold Fd.onStx
  split
  · exact .inl ⟨rfl, by simp [hst], .inl rfl⟩
  · exact (onCmd_outcome cfg k { fd with state := .cmd } b).imp_left fun h => ⟨h.errcode, h.state, h.response⟩

theorem Fd.onCrcLo_outcome (cfg : Byte) (fd : Fd) (b : Byte) :
    fd.Progress (fd.onCrcLo cfg b) ∨ Fd.Failed (fd.onCrcLo cfg b) := by
  unfold Fd.onCrcLo
  dsimp only
  split
  · exact .inr (decodeError_failed (by decide))
  · exact .inl ⟨rfl, nofun, .inl rfl⟩

theorem Fd.onEtx_outcome (cfg : Byte) (fd : Fd) (b : Byte) :
    fd.Progress (fd.onEtx cfg b) ∨ Fd.Failed (fd.onEtx cfg b) := by
  unfold Fd.onEtx
  split
  · exact .inr (decodeError_failed (by decide))
  · split
    · exact .inl ⟨rfl, nofun, .inl rfl⟩
    · exact .inl ⟨rfl, nofun, .inr rfl⟩

/-- Every byte is progress or an error (41_framer_decode.md R79). -/
theorem Fd.onByte_outcome (cfg : Byte) (k : Catalogue) (fd : Fd) (b : Byte) :
    fd.Progress (fd.onByte cfg k b) ∨ Fd.Failed (fd.onByte cfg k b) := by
  unfold Fd.onByte
  split
  case h_1 hst => exact onWakeup_outcome cfg b hst
  case h_2 hst => exact .inl (onHunt_outcome b hst)
  case h_3 hst => exact onStx_outcome cfg k b hst
  case h_4 => exact onCmd_outcome cfg k fd b
  case h_5 =>
    refine .inl ⟨rfl, ?_, .inl rfl⟩
    dsimp only [Fd.onLen]
    split <;> nofun
  case h_6 =>
    refine .inl ⟨rfl, ?_, .inl rfl⟩
    dsimp only [Fd.onData]
    split <;> nofun
  case h_7 => exact .inl ⟨rfl, nofun, .inl rfl⟩
  case h_8 => exact onCrcLo_outcome cfg fd b
  case h_9 => exact onEtx_outcome cfg fd b
  case h_10 => exact .inr (decodeError_failed (by decide))
  case h_11 hst => exact .inl ⟨rfl, by simp [onDiscard, hst], .inl rfl⟩

/-- The codes of the state machine are no programmer errors. -/
theorem not_isProgErrorCode_of_le {code : Byte} (h : code.toNat ≤ 7) : ¬ IsProgErrorCode code := by
  simp only [IsProgErrorCode, List.mem_cons, List.not_mem_nil, or_false]
  omega

/-- The outcomes of a whole buffer (41_framer_decode.md R80): no STX, a valid frame, an error recorded earlier, and a frame
cut short. -/
theorem Fd.bufferEnd_cases {fd fd' : Fd} {r : Response} (h : fd.bufferEnd = some (fd', r)) :
    (fd' = { fd.openFrame with errcode := 0x01, frameValid := false } ∧ r = .err 0x01)
      ∨ (fd.state = .done ∧ fd' = { fd with frameValid := true } ∧ r = .frameOk)
      ∨ (fd.state = .discard ∧ fd' = fd ∧ r = .err fd.errcode)
      ∨ (fd' = { fd with errcode := 0x07, frameValid := false } ∧ r = .err 0x07) := by
  unfold Fd.bufferEnd at h
  split at h
  case h_1 | h_2 =>
    cases h
    exact .inl ⟨rfl, rfl⟩
  case h_3 hst =>
    cases h
    exact .inr (.inl ⟨hst, rfl, rfl⟩)
  case h_4 hst =>
    cases h
    exact .inr (.inr (.inl ⟨hst, rfl, rfl⟩))
  case h_11 => cases h
  all_goals
    cases h
    exact .inr (.inr (.inr ⟨rfl, rfl⟩))

theorem Fd.bufferEnd_rxbuf {fd fd' : Fd} {r : Response} (h : fd.bufferEnd = some (fd', r)) : fd'.rxbuf = fd.rxbuf := by
  obtain ⟨rfl, -⟩ | ⟨-, rfl, -⟩ | ⟨-, rfl, -⟩ | ⟨rfl, -⟩ := bufferEnd_cases h
  · exact fd.openFrame_rxbuf
  all_goals rfl

/-- A buffer's end answers the recorded error, or it is a valid frame and records none. -/
theorem Fd.bufferEnd_response {fd fd' : Fd} {r : Response} (h : fd.bufferEnd = some (fd', r)) :
    r = .err fd'.errcode ∨ (r = .frameOk ∧ fd'.errcode = fd.errcode) := by
  obtain ⟨rfl, rfl⟩ | ⟨-, rfl, rfl⟩ | ⟨-, rfl, rfl⟩ | ⟨rfl, rfl⟩ := bufferEnd_cases h
  · exact .inl rfl
  · exact .inr ⟨rfl, rfl⟩
  · exact .inl rfl
  · exact .inl rfl

theorem Fd.bufferEnd_errcode_le {fd fd' : Fd} {r : Response} (h : fd.bufferEnd = some (fd', r))
    (hle : fd.errcode.toNat ≤ 7) : fd'.errcode.toNat ≤ 7 := by
  obtain ⟨rfl, -⟩ | ⟨-, rfl, -⟩ | ⟨-, rfl, -⟩ | ⟨rfl, -⟩ := bufferEnd_cases h
  · exact show (0x01#8).toNat ≤ 7 by decide
  · exact hle
  · exact hle
  · exact show (0x07#8).toNat ≤ 7 by decide

/-! ## FD.errcode, FD.state and FAULT -/

/-- Settles O53: the effects that write FD are a received byte and a buffer's end, which answer the error they record, and
the three resets. -/
theorem errcodeIsWrittenOnlyByDecoderErrors : Obligations.ErrcodeIsWrittenOnlyByDecoderErrors := by
  unfold Obligations.ErrcodeIsWrittenOnlyByDecoderErrors
  intro i s t h hne
  cases exec_effect h with
  | refused | read | badIndex | zeroStx | overflow | crcClr | crcByte | streamEnd | encoder => exact absurd rfl hne
  | reset | frReset => rfl
  | cfgWr d =>
    simp only [State.respond_fd] at hne ⊢
    split at hne
    · exact absurd rfl hne
    · next hmode => rw [if_neg hmode]; rfl
  | frByte d =>
    obtain hprogress | hfailed := s.fd.onByte_outcome s.blk.cfg s.catalogue d
    · exact absurd hprogress.errcode hne
    · exact congrArg (· :: s.responses) hfailed.response
  | bufferEnd _ _ hend =>
    obtain rfl | ⟨-, hkept⟩ := Fd.bufferEnd_response hend
    · rfl
    · exact absurd hkept hne

/-- STATUS[3:0] is the number of FD.state (10_state.md R19). -/
theorem State.status_state (s : State) : s.status &&& 0x0F = s.fd.state.number.setWidth 8 := by
  have hflag : ∀ f : Bool, flagByte f <<< 4 &&& 0x0F = 0#8 ∧ flagByte f <<< 5 &&& 0x0F = 0#8
      ∧ flagByte f <<< 6 &&& 0x0F = 0#8 ∧ flagByte f <<< 7 &&& 0x0F = 0#8 := by decide
  have hnumber : ∀ n : BitVec 4, n.setWidth 8 &&& 0x0F = n.setWidth 8 := by decide
  simp only [State.status, BitVec.and_or_distrib_right, hflag, hnumber, BitVec.or_zero]

theorem State.status_ne_cmd {s : State} (h : s.fd.state ≠ .cmd) : s.status &&& 0x0F ≠ 2 := by
  rw [State.status_state]
  revert h
  cases s.fd.state <;> decide

/-- No operation leaves the state CMD behind. -/
theorem Effect.state_ne_cmd {i : Instr} {s t : State} (h : Effect s i t) (hs : s.fd.state ≠ .cmd) :
    t.fd.state ≠ .cmd := by
  cases h with
  | refused | read | badIndex | zeroStx | overflow | crcClr | crcByte | streamEnd | encoder => exact hs
  | reset | frReset | bufferEnd => exact nofun
  | cfgWr d =>
    simp only [State.respond_fd]
    split
    · exact hs
    · exact nofun
  | frByte d =>
    obtain hprogress | hfailed := s.fd.onByte_outcome s.blk.cfg s.catalogue d
    · exact hprogress.state
    · exact hfailed.state

/-- The induction step of every invariant of the machine: what does not speak of the issued words, and is kept by the effect
of every operation and by the programmer error of an illegal word, is kept by every step. -/
theorem step_keeps {P : State → Prop} (hissued : ∀ s ws, P s → P { s with issued := ws })
    (heffect : ∀ {s t i}, Effect s i t → P s → P t) (hillegal : ∀ s, P s → P (s.afterProgError 0x0B)) {s t : State}
    (hs : P s) (h : step s = .next t) : P t := by
  cases hw : s.issued with
  | nil =>
    rw [step_of_idle hw] at h
    cases h
    exact hs
  | cons w rest =>
    rw [step_of_issued hw] at h
    obtain ⟨i, -, he⟩ | ⟨-, rfl⟩ := perform_effect h
    · exact heffect he (hissued s rest hs)
    · exact hillegal _ (hissued s rest hs)

/-- Settles O54: FD.state is kept out of CMD by every effect, and STATUS[3:0] is its number. -/
theorem stateNeverHoldsCmdBetweenOperations : Obligations.StateNeverHoldsCmdBetweenOperations := by
  unfold Obligations.StateNeverHoldsCmdBetweenOperations
  intro s t hs h
  have ht : t.fd.state ≠ .cmd :=
    step_keeps (P := fun s => s.fd.state ≠ .cmd) (fun _ _ hs => hs) Effect.state_ne_cmd (fun _ hs => hs) hs h
  exact ⟨ht, State.status_ne_cmd ht⟩

/-- While FAULT is 1 a programmer error records nothing (60_exceptions.md R104). -/
theorem State.afterProgError_blk_of_faulted {s : State} (hf : s.blk.fault = true) (c : Byte) :
    (s.afterProgError c).blk = s.blk :=
  if_pos hf

/-- Outside FAULT a programmer error records its code. -/
theorem State.afterProgError_blk_of_running {s : State} (hf : s.blk.fault = false) (c : Byte) :
    (s.afterProgError c).blk = { cfg := s.blk.cfg, fault := true, faultcode := c } :=
  if_neg (Bool.eq_false_iff.1 hf)

/-- Every operation but RST keeps BLK while FAULT is 1. -/
theorem Effect.blk_of_faulted {i : Instr} {s t : State} (h : Effect s i t) (hf : s.blk.fault = true) (hi : i ≠ .rst) :
    t.blk = s.blk := by
  cases h with
  | reset => exact absurd rfl hi
  | cfgWr _ hf' => exact absurd hf (by simp [hf'])
  | badIndex | zeroStx | overflow => exact State.afterProgError_blk_of_faulted hf _
  | _ => rfl

/-- An operation that sets FAULT is a programmer error. -/
theorem Effect.fault_set {i : Instr} {s t : State} (h : Effect s i t) (hf : s.blk.fault = false)
    (ht : t.blk.fault = true) : ∃ code, IsProgErrorCode code ∧ t = s.afterProgError code := by
  cases h with
  | badIndex | zeroStx | overflow => exact ⟨_, by decide, rfl⟩
  | reset => cases ht
  | _ => exact absurd (hf.symm.trans ht) nofun

/-- An operation that answers a programmer error's code is that programmer error. -/
theorem Effect.progError_answered {i : Instr} {s t : State} {code : Byte} (h : Effect s i t)
    (herr : s.fd.errcode.toNat ≤ 7) (hcode : IsProgErrorCode code) (ht : t.responses = .err code :: s.responses) :
    t = s.afterProgError code := by
  have hhead : t.responses.head? = some (.err code) := by rw [ht]; rfl
  cases h with
  | badIndex | zeroStx | overflow => cases hhead; rfl
  | refused => cases hhead; exact absurd hcode (by decide)
  | read _ hr => exact absurd hcode (hr code (Option.some.inj hhead))
  | reset | crcClr | crcByte | cfgWr | frReset | streamEnd | encoder => cases hhead
  | frByte d =>
    have hd := Option.some.inj hhead
    obtain hprogress | hfailed := s.fd.onByte_outcome s.blk.cfg s.catalogue d
    · obtain h | h := hprogress.response <;> cases h.symm.trans hd
    · obtain rfl := Response.err.inj (hfailed.response.symm.trans hd)
      exact absurd hcode (not_isProgErrorCode_of_le hfailed.code)
  | bufferEnd _ _ hend =>
    have hr := Option.some.inj hhead
    obtain h | ⟨h, -⟩ := Fd.bufferEnd_response hend
    · obtain rfl := Response.err.inj (h.symm.trans hr)
      exact absurd hcode (not_isProgErrorCode_of_le (Fd.bufferEnd_errcode_le hend herr))
    · cases h.symm.trans hr

theorem decode_rst_iff {w : OpWord} : decode w = .legal .rst ↔ w = 0x1000 := by
  constructor
  · exact fun h => (encode_of_decode h).symm
  · rintro rfl
    rfl

/-- FAULT under a performed word: RST clears it, and every other word leaves BLK as it is. -/
theorem perform_blk_of_faulted {w : OpWord} {s t : State} (h : perform w s = .next t) (hf : s.blk.fault = true) :
    (w = 0x1000 ∧ t.blk.fault = false) ∨ (w ≠ 0x1000 ∧ t.blk = s.blk) := by
  by_cases hw : w = 0x1000
  · rw [perform_of_legal (decode_rst_iff.2 hw)] at h
    cases h
    exact .inl ⟨hw, rfl⟩
  · refine .inr ⟨hw, ?_⟩
    obtain ⟨i, hi, he⟩ | ⟨-, rfl⟩ := perform_effect h
    · exact he.blk_of_faulted hf fun hrst => hw (decode_rst_iff.1 (hrst ▸ hi))
    · exact State.afterProgError_blk_of_faulted hf _

theorem perform_fault_set {w : OpWord} {s t : State} (h : perform w s = .next t) (hf : s.blk.fault = false)
    (ht : t.blk.fault = true) : ∃ code, IsProgErrorCode code ∧ t = s.afterProgError code := by
  obtain ⟨i, -, he⟩ | ⟨-, rfl⟩ := perform_effect h
  · exact he.fault_set hf ht
  · exact ⟨_, by decide, rfl⟩

theorem perform_progError_answered {w : OpWord} {s t : State} {code : Byte} (h : perform w s = .next t)
    (herr : s.fd.errcode.toNat ≤ 7) (hcode : IsProgErrorCode code) (ht : t.responses = .err code :: s.responses) :
    t = s.afterProgError code := by
  obtain ⟨i, -, he⟩ | ⟨-, rfl⟩ := perform_effect h
  · exact he.progError_answered herr hcode ht
  · cases ht
    rfl

/-- Settles O52: under FAULT only RST writes BLK, and outside FAULT the steps that set it are the programmer errors. -/
theorem faultStaysUntilRst : Obligations.FaultStaysUntilRst := by
  unfold Obligations.FaultStaysUntilRst
  intro s t w rest hs h
  rw [step_of_issued hs] at h
  have hfaulted := perform_blk_of_faulted h
  have hrunning (hf : s.blk.fault = false) := State.afterProgError_blk_of_running (s := { s with issued := rest }) hf
  refine ⟨hfaulted, fun hf ht => ?_, fun hf herr code hcode ht => ?_⟩
  · obtain ⟨code, hcode, rfl⟩ := perform_fault_set h hf ht
    rw [hrunning hf]
    exact ⟨hcode, rfl, rfl, rfl, rfl, rfl⟩
  · obtain rfl := perform_progError_answered h herr hcode ht
    rw [hrunning hf]
    exact ⟨rfl, rfl⟩

/-! ## The access matrix (10_state.md R26) -/

/-- Settles O50: an effect names the elements it writes. -/
theorem onlyTheListedElementsAreWritten : Obligations.OnlyTheListedElementsAreWritten := by
  unfold Obligations.OnlyTheListedElementsAreWritten
  refine ⟨fun w s hw => ?_, fun i s t hwf h => ?_⟩
  · obtain ⟨why, hwhy⟩ := illegal_of_table hw
    exact (perform_of_illegal hwhy s).trans (illegalOp_eq s)
  obtain ⟨-, hissued, hcatalogue⟩ := exec_answersOnce i s t h
  refine ⟨hissued, hcatalogue, ?_⟩
  cases exec_effect h with
  | refused hi hf =>
    cases i with
    | nop | rst | rdReg | rdData => cases hi
    | _ => simp [hf]
  | read hi hr =>
    cases i with
    | nop | rdReg | rdData | classify | crcRead | encGo => exact ⟨rfl, rfl, rfl, rfl⟩
    | _ => cases hi
  | badIndex => cases hwf
  | zeroStx => exact ⟨State.afterProgError_cfg .., rfl, rfl, rfl⟩
  | overflow => exact ⟨State.afterProgError_cfg .., rfl, rfl, rfl, fun _ _ _ => rfl⟩
  | reset => exact ⟨rfl, rfl, rfl, rfl⟩
  | crcClr | crcByte => exact ⟨rfl, rfl, rfl⟩
  | cfgWr d => exact ⟨rfl, rfl, rfl, rfl, if_congr eq_comm rfl rfl⟩
  | frReset hf => exact ⟨rfl, rfl, rfl, (if_neg (by simp [hf])).symm⟩
  | frByte d => exact ⟨rfl, rfl, rfl⟩
  | streamEnd => exact ⟨rfl, rfl, rfl, rfl⟩
  | bufferEnd _ _ hend =>
    have hrx := Fd.bufferEnd_rxbuf hend
    exact ⟨rfl, rfl, rfl, hrx⟩
  | encoder hf hw =>
    cases hw with
    | clr => exact ⟨rfl, rfl, rfl, (if_neg (by simp [hf])).symm⟩
    | push d hroom => exact ⟨rfl, rfl, rfl, rfl, fun hwf j hj => Memory.read_write_other hwf hj.symm⟩
    | _ => exact ⟨rfl, rfl, rfl, rfl⟩

/-! ## The encoder's buffer (10_state.md R24) -/

theorem execAll_cons_of_next {i : Instr} {is : List Instr} {s t : State} (h : exec i s = .next t) :
    execAll (i :: is) s = execAll is t := by
  simp [execAll, h]

/-- ENC_PUSH with room for one byte more (42_encoder.md R88). -/
theorem exec_encPush_of_room {d : Byte} {s : State} (hf : s.blk.fault = false) (hroom : s.en.len ≠ 0xFF#8) :
    exec (.encPush d) s = .next (State.respond
      { s with en := { s.en with txbuf := s.en.txbuf.write s.en.txIndex d, len := s.en.len + 1 } } .none) := by
  change execEncPush d s = _
  rw [execEncPush, unlessFaulted_of_running hf, if_neg hroom]
  rfl

/-- Below 255 a byte count does not wrap. -/
theorem succ_toNat_of_lt {n : Byte} (h : n.toNat < 255) : (n + 1).toNat = n.toNat + 1 := by
  rw [BitVec.toNat_add]
  exact Nat.mod_eq_of_lt (show n.toNat + 1 < 256 by omega)

/-- Pushes append their bytes to TXBUF, as long as there is room for them all. -/
theorem execAll_encPush (payload : List Byte) (s : State) (hf : s.blk.fault = false) (hwf : s.en.txbuf.wf = true)
    (hroom : s.en.len.toNat + payload.length ≤ 255) : ∃ tx,
    execAll (payload.map .encPush) s = .next
      { s with
        en := { s.en with txbuf := tx, len := s.en.len + BitVec.ofNat 8 payload.length }
        responses := List.replicate payload.length Response.none ++ s.responses }
    ∧ tx.firstBytes (s.en.len.toNat + payload.length) = s.en.txbuf.firstBytes s.en.len.toNat ++ payload
    ∧ tx.wf = true := by
  induction payload generalizing s with
  | nil => exact ⟨s.en.txbuf, by simp [execAll], by simp, hwf⟩
  | cons d rest ih =>
    rw [List.length_cons] at hroom
    have hlen : s.en.len.toNat < 255 := by omega
    have hne : s.en.len ≠ 0xFF#8 := fun h => by simp [h] at hlen
    obtain ⟨tx, hrun, hbytes, htx⟩ := ih
      (State.respond { s with en := { s.en with txbuf := s.en.txbuf.write s.en.txIndex d, len := s.en.len + 1 } } .none)
      hf (Memory.wf_write hwf hlen) (by rw [State.respond_en, succ_toNat_of_lt hlen]; omega)
    refine ⟨tx, ?_, ?_, htx⟩
    · rw [List.map_cons, execAll_cons_of_next (exec_encPush_of_room hf hne), hrun]
      have hsum : s.en.len + 1 + BitVec.ofNat 8 rest.length = s.en.len + BitVec.ofNat 8 (rest.length + 1) := by
        rw [BitVec.add_assoc, BitVec.add_comm 1, BitVec.ofNat_add]
        rfl
      simp [List.replicate_succ', ← hsum]
    · simp only [State.respond_en, succ_toNat_of_lt hlen, En.txIndex, Memory.firstBytes_write hwf] at hbytes
      simpa [Nat.add_assoc, Nat.add_comm 1] using hbytes

/-- Settles O39: ENC_CLR leaves an empty TXBUF, to which the pushes append. -/
theorem encoderLengthCountsThePushes : Obligations.EncoderLengthCountsThePushes := by
  unfold Obligations.EncoderLengthCountsThePushes
  intro payload s hf hlen
  obtain ⟨tx, hrun, hbytes, htx⟩ := execAll_encPush payload (State.respond { s with en := .reset } .none) hf rfl
    (by simpa [En.reset] using hlen)
  refine ⟨tx, ?_, ?_, htx⟩
  · rw [execAll_cons_of_next (i := .encClr) (unlessFaulted_of_running hf _), hrun]
    simp [En.reset, List.replicate_succ']
  · simpa [En.reset] using hbytes

/-! ## The invariant of the decoder, by kind of state -/

/-- The part of the decoder's invariant that does not depend on its state. -/
structure Fd.Sound (fd : Fd) : Prop where
  rxWf : fd.rxbuf.wf = true
  engShape : fd.eng.Inv
  errRange : fd.errcode.toNat ≤ 7

/-- What a valid frame's registers say of it (10_state.md R23). -/
def Fd.DescribesFrame (k : Catalogue) (fd : Fd) : Prop :=
  knownCmd k fd.cmd = true ∧ fd.stxCnt ≠ 0 ∧ fd.crcCalc = crc16 (fd.span fd.len.toNat)

/-- A saturating count never returns to 0. -/
theorem satInc8_ne_zero (n : Byte) : satInc8 n ≠ 0 := by
  intro h
  have hzero : (satInc8 n).toNat = 0 := congrArg BitVec.toNat h
  rw [satInc8_toNat] at hzero
  omega

section Kinds
variable {cfg : Byte} {k : Catalogue} {fd : Fd}

theorem Fd.Inv.sound (h : fd.Inv cfg k) : fd.Sound := ⟨h.rxWf, h.engShape, h.errRange⟩

theorem Fd.Inv.frameValid_of_inframe (h : fd.Inv cfg k) (hin : fd.inframe = true) : fd.frameValid = false := by
  cases hv : fd.frameValid
  · rfl
  · obtain ⟨-, hout, -⟩ := h.valid hv
    cases hout.symm.trans hin

theorem Fd.Inv.frameValid_of_not_wakeup (h : fd.Inv cfg k) (hst : fd.state ≠ .wakeup) : fd.frameValid = false := by
  cases hv : fd.frameValid
  · rfl
  · exact absurd (h.valid hv).1 hst

/-- Outside a frame, in WAKEUP. -/
theorem Fd.Sound.idle_inv (hs : fd.Sound) (hst : fd.state = .wakeup) (hin : fd.inframe = false)
    (hvalid : fd.frameValid = true → fd.DescribesFrame k) : fd.Inv cfg k := by
  obtain ⟨hrx, heng, herr⟩ := hs
  constructor <;> simp_all [FdState.afterCmd, CrcTracksSpan, DescribesFrame]

/-- In WAKEUP inside a frame: wakeup bytes have arrived. -/
theorem Fd.Sound.opened_inv (hs : fd.Sound) (hst : fd.state = .wakeup) (heng : fd.eng = .clear)
    (hvalid : fd.frameValid = false) : fd.Inv cfg k := by
  obtain ⟨hrx, hshape, herr⟩ := hs
  constructor <;> simp_all [FdState.afterCmd, CrcTracksSpan]

theorem Fd.Sound.stx_inv (hs : fd.Sound) (hst : fd.state = .stx) (hin : fd.inframe = true) (heng : fd.eng = .clear)
    (hcnt : fd.stxCnt ≠ 0) (hvalid : fd.frameValid = false) : fd.Inv cfg k := by
  obtain ⟨hrx, hshape, herr⟩ := hs
  constructor <;> simp_all [FdState.afterCmd, CrcTracksSpan]

/-- After the command byte of a frame. -/
theorem Fd.Sound.afterCmd_inv (hs : fd.Sound) (hst : fd.state.afterCmd = true) (hin : fd.inframe = true)
    (hdone : fd.state = .done → bufMode cfg = true) (hroom : fd.state = .data → fd.dataCnt.toNat < fd.len.toNat)
    (htracks : fd.CrcTracksSpan) (hcmd : knownCmd k fd.cmd = true ∧ fd.stxCnt ≠ 0) (hvalid : fd.frameValid = false) :
    fd.Inv cfg k := by
  have hne {st : FdState} (h : st.afterCmd = false) : fd.state ≠ st := fun he => by simp [he, h] at hst
  exact
    { rxWf := hs.rxWf, engShape := hs.engShape, errRange := hs.errRange
      notCmd := hne rfl
      huntStreams := fun h => absurd h (hne rfl)
      bufferStates := fun h => hdone (h.resolve_right (hne rfl))
      inFrame := fun _ _ => hin
      room := hroom
      tracks := htracks
      accepted := fun _ => hcmd
      counted := fun h => absurd h (hne rfl)
      valid := fun h => absurd (hvalid.symm.trans h) nofun
      discardErr := fun h => absurd h (hne rfl) }

theorem Fd.Sound.hunt_inv (hs : fd.Sound) (hst : fd.state = .hunt) (hin : fd.inframe = false)
    (hmode : bufMode cfg = false) (hvalid : fd.frameValid = false) : fd.Inv cfg k := by
  obtain ⟨hrx, hshape, herr⟩ := hs
  constructor <;> simp_all [FdState.afterCmd, CrcTracksSpan]

theorem Fd.Sound.discard_inv (hs : fd.Sound) (hst : fd.state = .discard) (hin : fd.inframe = true)
    (hmode : bufMode cfg = true) (hcode : fd.errcode ≠ 0) (hvalid : fd.frameValid = false) : fd.Inv cfg k := by
  obtain ⟨hrx, hshape, herr⟩ := hs
  constructor <;> simp_all [FdState.afterCmd, CrcTracksSpan]

/-! ## The decoder's actions keep the invariant -/

/-- A marker that starts a new frame while the decoder hunts. -/
theorem Fd.Sound.hunt_marker_inv {b : Byte} (hs : fd.Sound) (hb : isMarker b = true) : (fd.hunt b).Inv cfg k := by
  have hsof : fd.sof.Sound := ⟨hs.rxWf, engine_clear_inv, hs.errRange⟩
  obtain rfl | rfl := isMarker_iff.1 hb
  · rw [hunt_wakeup]
    exact opened_inv ⟨hsof.rxWf, hsof.engShape, hsof.errRange⟩ rfl rfl rfl
  · rw [hunt_stx]
    exact stx_inv ⟨hsof.rxWf, hsof.engShape, hsof.errRange⟩ rfl rfl rfl (show 1#8 ≠ 0 by decide) rfl

/-- The decoder error action, from any sound decoder that a whole-buffer decode has in a frame (60_exceptions.md R103). -/
theorem Fd.Sound.decodeError_inv {e : ErrCode} (b : Byte) (rx : Bool) (hs : fd.Sound) (hin : fd.inframe = true)
    (he : e.code ≠ 0 ∧ e.code.toNat ≤ 7) : (fd.decodeError cfg e b rx).1.Inv cfg k := by
  cases hmode : bufMode cfg
  · cases hb : rx && isMarker b
    · rw [decodeError_stream hmode _ _ _ _ hb]
      exact hunt_inv ⟨hs.rxWf, hs.engShape, he.2⟩ rfl rfl hmode rfl
    · rw [decodeError_restart hmode _ _ _ _ hb]
      exact hunt_marker_inv ⟨hs.rxWf, hs.engShape, he.2⟩ (Bool.and_eq_true_iff.1 hb).2
  · rw [decodeError_buffer hmode]
    exact discard_inv ⟨hs.rxWf, hs.engShape, he.2⟩ rfl hin hmode he.1 rfl

theorem Fd.Sound.openFrame_sound (hs : fd.Sound) : fd.openFrame.Sound := by
  cases hin : fd.inframe
  · rw [openFrame_of_not_inframe hin]
    exact ⟨hs.rxWf, engine_clear_inv, hs.errRange⟩
  · rwa [openFrame_of_inframe hin]

/-- Opening a frame in WAKEUP leaves the engine clear and no frame valid. -/
theorem Fd.Inv.openFrame_facts (h : fd.Inv cfg k) (hst : fd.state = .wakeup) :
    fd.openFrame.eng = .clear ∧ fd.openFrame.frameValid = false := by
  cases hin : fd.inframe
  · rw [openFrame_of_not_inframe hin]
    exact ⟨rfl, rfl⟩
  · rw [openFrame_of_inframe hin]
    have htracks := h.tracks
    simp only [CrcTracksSpan, hst] at htracks
    exact ⟨htracks hin, h.frameValid_of_inframe hin⟩

theorem Fd.Inv.onWakeup_inv (b : Byte) (h : fd.Inv cfg k) (hst : fd.state = .wakeup) :
    (fd.onWakeup cfg b).1.Inv cfg k := by
  have hs := h.sound.openFrame_sound
  obtain ⟨heng, hvalid⟩ := h.openFrame_facts hst
  unfold Fd.onWakeup
  split
  · next taken htaken =>
    obtain rfl | rfl := takeMarker_cases htaken
    · exact Sound.opened_inv ⟨hs.rxWf, hs.engShape, hs.errRange⟩ (fd.openFrame_state.trans hst) heng hvalid
    · exact Sound.stx_inv ⟨hs.rxWf, hs.engShape, hs.errRange⟩ rfl fd.openFrame_inframe heng
        (show 1#8 ≠ 0 by decide) hvalid
  · exact hs.decodeError_inv b false fd.openFrame_inframe (by decide)

theorem Fd.Inv.onHunt_inv (b : Byte) (h : fd.Inv cfg k) : (fd.onHunt b).1.Inv cfg k := by
  cases hb : isMarker b
  · rw [onHunt, hunt_discards hb]
    exact h
  · exact h.sound.hunt_marker_inv hb

/-- The command byte, in the state that STX hands it over in (41_framer_decode.md R67, R69). -/
theorem Fd.Sound.onCmd_inv (b : Byte) (hs : fd.Sound) (hin : fd.inframe = true) (heng : fd.eng = .clear)
    (hcnt : fd.stxCnt ≠ 0) (hvalid : fd.frameValid = false) : (fd.onCmd cfg k b).1.Inv cfg k := by
  unfold Fd.onCmd
  split
  · exact hs.decodeError_inv b true hin (by decide)
  · split
    · exact hs.decodeError_inv b true hin (by decide)
    · next hknown =>
      have hcmd : knownCmd k b = true := by simpa using hknown
      exact afterCmd_inv ⟨hs.rxWf, engFeed_inv _ _, hs.errRange⟩ rfl hin nofun nofun (congrArg (engFeed · b) heng)
        ⟨hcmd, hcnt⟩ hvalid

theorem Fd.Inv.onStx_inv (b : Byte) (h : fd.Inv cfg k) (hst : fd.state = .stx) : (fd.onStx cfg k b).1.Inv cfg k := by
  have hin : fd.inframe = true := h.inFrame (by simp [hst]) (by simp [hst])
  have heng : fd.eng = .clear := by simpa only [CrcTracksSpan, hst] using h.tracks
  have hvalid := h.frameValid_of_inframe hin
  unfold Fd.onStx
  split
  · exact Sound.stx_inv ⟨h.rxWf, h.engShape, h.errRange⟩ hst hin heng (satInc8_ne_zero _) hvalid
  · exact Sound.onCmd_inv b ⟨h.rxWf, h.engShape, h.errRange⟩ hin heng (h.counted hst) hvalid

/-- The facts that hold in every state after an accepted command byte. -/
theorem Fd.Inv.frame_facts (h : fd.Inv cfg k) (hst : fd.state.afterCmd = true) :
    fd.inframe = true ∧ (knownCmd k fd.cmd = true ∧ fd.stxCnt ≠ 0) ∧ fd.frameValid = false := by
  have hin : fd.inframe = true := h.inFrame (fun he => by simp [he, FdState.afterCmd] at hst)
    (fun he => by simp [he, FdState.afterCmd] at hst)
  exact ⟨hin, h.accepted hst, h.frameValid_of_inframe hin⟩

theorem Fd.Inv.onLen_inv (b : Byte) (h : fd.Inv cfg k) (hst : fd.state = .len) : (fd.onLen b).1.Inv cfg k := by
  obtain ⟨hin, hcmd, hvalid⟩ := h.frame_facts (by rw [hst]; rfl)
  have heng : fd.eng = engFeedAll [fd.cmd] := by simpa only [CrcTracksSpan, hst] using h.tracks
  have hs : (fd.onLen b).1.Sound := ⟨h.rxWf, engFeed_inv _ _, h.errRange⟩
  have hfed : engFeed fd.eng b = engFeedAll [fd.cmd, b] := by rw [heng]; rfl
  by_cases hb : b = 0
  · subst hb
    exact hs.afterCmd_inv rfl hin nofun nofun hfed hcmd hvalid
  · have hdata : (fd.onLen b).1.state = .data := if_neg hb
    refine hs.afterCmd_inv (by rw [hdata]; rfl) hin (by simp [hdata]) (fun _ => ?_) ?_ hcmd hvalid
    · exact Nat.pos_of_ne_zero fun h0 => hb (BitVec.eq_of_toNat_eq h0)
    · simp only [CrcTracksSpan, hdata]
      exact hfed

theorem Fd.Inv.onData_inv (b : Byte) (h : fd.Inv cfg k) (hst : fd.state = .data) : (fd.onData b).1.Inv cfg k := by
  obtain ⟨hin, hcmd, hvalid⟩ := h.frame_facts (by rw [hst]; rfl)
  have hroom := h.room hst
  have hindex : fd.dataCnt.toNat < 255 := by have := fd.len.isLt; omega
  have hcnt : (fd.dataCnt + 1).toNat = fd.dataCnt.toNat + 1 := succ_toNat_of_lt hindex
  have heng : fd.eng = engFeedAll (fd.span fd.dataCnt.toNat) := by simpa only [CrcTracksSpan, hst] using h.tracks
  have hfed : (fd.onData b).1.eng = engFeedAll ((fd.onData b).1.span (fd.dataCnt.toNat + 1)) := by
    have hspan : (fd.onData b).1.span (fd.dataCnt.toNat + 1) = fd.span fd.dataCnt.toNat ++ [b] :=
      congrArg (fd.cmd :: fd.len :: ·) (Memory.firstBytes_write h.rxWf _ b)
    rw [hspan, engFeedAll_concat, ← heng]
    rfl
  have hs : (fd.onData b).1.Sound := ⟨Memory.wf_write h.rxWf hindex, engFeed_inv _ _, h.errRange⟩
  by_cases hend : fd.dataCnt + 1 = fd.len
  · have hstate : (fd.onData b).1.state = .crcHi := if_pos hend
    refine hs.afterCmd_inv (by rw [hstate]; rfl) hin (by simp [hstate]) (by simp [hstate]) ?_ hcmd hvalid
    simp only [CrcTracksSpan, hstate]
    rw [hfed, ← hcnt, hend]
    rfl
  · have hstate : (fd.onData b).1.state = .data := if_neg hend
    refine hs.afterCmd_inv (by rw [hstate]; rfl) hin (by simp [hstate]) (fun _ => ?_) ?_ hcmd hvalid
    · have hne : (fd.dataCnt + 1).toNat ≠ fd.len.toNat := fun he => hend (BitVec.eq_of_toNat_eq he)
      change (fd.dataCnt + 1).toNat < fd.len.toNat
      omega
    · simp only [CrcTracksSpan, hstate]
      rw [hfed, ← hcnt]
      rfl

theorem Fd.Inv.onCrcHi_inv (b : Byte) (h : fd.Inv cfg k) (hst : fd.state = .crcHi) : (fd.onCrcHi b).1.Inv cfg k := by
  obtain ⟨hin, hcmd, hvalid⟩ := h.frame_facts (by rw [hst]; rfl)
  have heng : fd.eng = engFeedAll (fd.span fd.len.toNat) := by simpa only [CrcTracksSpan, hst] using h.tracks
  exact Sound.afterCmd_inv ⟨h.rxWf, h.engShape, h.errRange⟩ rfl hin nofun nofun heng hcmd hvalid

theorem Fd.Inv.onCrcLo_inv (b : Byte) (h : fd.Inv cfg k) (hst : fd.state = .crcLo) : (fd.onCrcLo cfg b).1.Inv cfg k := by
  obtain ⟨hin, hcmd, hvalid⟩ := h.frame_facts (by rw [hst]; rfl)
  have heng : fd.eng = engFeedAll (fd.span fd.len.toNat) := by simpa only [CrcTracksSpan, hst] using h.tracks
  have hcalc : engFinal fd.eng = crc16 (fd.span fd.len.toNat) := by rw [heng, engFinal_engFeedAll]
  dsimp only [Fd.onCrcLo]
  split
  · exact Sound.decodeError_inv b false ⟨h.rxWf, h.engShape, h.errRange⟩ hin (by decide)
  · exact Sound.afterCmd_inv ⟨h.rxWf, h.engShape, h.errRange⟩ rfl hin nofun nofun hcalc hcmd hvalid

theorem Fd.Inv.onEtx_inv (b : Byte) (h : fd.Inv cfg k) (hst : fd.state = .etx) : (fd.onEtx cfg b).1.Inv cfg k := by
  obtain ⟨hin, hcmd, hvalid⟩ := h.frame_facts (by rw [hst]; rfl)
  have hcalc : fd.crcCalc = crc16 (fd.span fd.len.toNat) := by simpa only [CrcTracksSpan, hst] using h.tracks
  unfold Fd.onEtx
  split
  · exact h.sound.decodeError_inv b true hin (by decide)
  · split
    · next hmode =>
      exact Sound.afterCmd_inv ⟨h.rxWf, h.engShape, h.errRange⟩ rfl hin (fun _ => hmode) nofun hcalc hcmd hvalid
    · exact Sound.idle_inv ⟨h.rxWf, h.engShape, h.errRange⟩ rfl rfl fun _ => ⟨hcmd.1, hcmd.2, hcalc⟩

/-- A byte received in any state keeps the decoder's invariant (41_framer_decode.md R79). -/
theorem Fd.Inv.onByte_inv (b : Byte) (h : fd.Inv cfg k) : (fd.onByte cfg k b).1.Inv cfg k := by
  unfold Fd.onByte
  split
  case h_1 hst => exact h.onWakeup_inv b hst
  case h_2 => exact h.onHunt_inv b
  case h_3 hst => exact h.onStx_inv b hst
  case h_4 hst => exact absurd hst h.notCmd
  case h_5 hst => exact h.onLen_inv b hst
  case h_6 hst => exact h.onData_inv b hst
  case h_7 hst => exact h.onCrcHi_inv b hst
  case h_8 hst => exact h.onCrcLo_inv b hst
  case h_9 hst => exact h.onEtx_inv b hst
  case h_10 hst => exact h.sound.decodeError_inv b false (h.frame_facts (by rw [hst]; rfl)).1 (by decide)
  case h_11 => exact h

/-- The end of a whole buffer leaves a decoder that is ready for the next one (41_framer_decode.md R80). -/
theorem Fd.Inv.bufferEnd_inv {fd' : Fd} {r : Response} (h : fd.Inv cfg k) (hend : fd.bufferEnd = some (fd', r)) :
    Fd.Inv cfg k { fd' with state := .wakeup, inframe := false } := by
  obtain ⟨rfl, -⟩ | ⟨hst, rfl, -⟩ | ⟨hst, rfl, -⟩ | ⟨rfl, -⟩ := bufferEnd_cases hend
  · have hs := h.sound.openFrame_sound
    exact Sound.idle_inv ⟨hs.rxWf, hs.engShape, show (0x01#8).toNat ≤ 7 by decide⟩ rfl rfl nofun
  · obtain ⟨hin, hcmd, hvalid⟩ := h.frame_facts (by rw [hst]; rfl)
    have hcalc : fd.crcCalc = crc16 (fd.span fd.len.toNat) := by simpa only [CrcTracksSpan, hst] using h.tracks
    exact Sound.idle_inv ⟨h.rxWf, h.engShape, h.errRange⟩ rfl rfl fun _ => ⟨hcmd.1, hcmd.2, hcalc⟩
  · have hvalid := h.frameValid_of_not_wakeup (by simp [hst])
    exact Sound.idle_inv ⟨h.rxWf, h.engShape, h.errRange⟩ rfl rfl fun hv => nomatch hvalid.symm.trans hv
  · exact Sound.idle_inv ⟨h.rxWf, h.engShape, show (0x07#8).toNat ≤ 7 by decide⟩ rfl rfl nofun

theorem Fd.reset_inv : Fd.reset.Inv cfg k :=
  Fd.Sound.idle_inv ⟨rfl, engine_clear_inv, by decide⟩ rfl rfl nofun

/-- The decoder's invariant reads BUFMODE and no other setting. -/
theorem Fd.Inv.of_bufMode_eq {cfg' : Byte} (h : fd.Inv cfg k) (hmode : bufMode cfg = bufMode cfg') : fd.Inv cfg' k :=
  { h with huntStreams := hmode ▸ h.huntStreams, bufferStates := hmode ▸ h.bufferStates }

end Kinds

/-! ## BLK and EN -/

theorem Blk.Inv.cfgWritten_inv {b : Blk} (h : b.Inv) (d : Byte) : Blk.Inv { b with cfg := cfgWritten d } := by
  have hmask : cfgWritten d &&& 0xF8 = 0 := by
    rw [cfgWritten, BitVec.and_assoc]
    exact BitVec.and_zero
  exact ⟨hmask, h.noFault, h.faultCode⟩

/-- A programmer error outside FAULT records its code, and under FAULT nothing (60_exceptions.md R104). -/
theorem Blk.Inv.afterProgError_inv {s : State} {code : Byte} (h : s.blk.Inv)
    (hcode : code = 0x09 ∨ code = 0x0A ∨ code = 0x0B) : (s.afterProgError code).blk.Inv := by
  cases hf : s.blk.fault
  · rw [State.afterProgError_blk_of_running hf]
    exact ⟨h.reservedZero, nofun, fun _ => hcode⟩
  · rwa [State.afterProgError_blk_of_faulted hf]

theorem Blk.reset_inv : Blk.reset.Inv := ⟨by decide, fun _ => rfl, nofun⟩

theorem En.reset_inv : En.reset.Inv := ⟨by decide, rfl, fun _ _ => rfl⟩

theorem En.Inv.write_inv {en en' : En} {i : Instr} (h : en.Inv) (hw : en.Write i en') : en'.Inv := by
  cases hw with
  | clr => exact En.reset_inv
  | cmd | wake | crcHi | crcLo | crcAuto => exact ⟨h.stxNonzero, h.txWf, h.onlyPushed⟩
  | stx hd => exact ⟨hd, h.txWf, h.onlyPushed⟩
  | push d hroom =>
    have hlt : en.len.toNat < 255 := by
      have := en.len.isLt
      have : en.len.toNat ≠ 255 := fun he => hroom (BitVec.eq_of_toNat_eq he)
      omega
    refine ⟨h.stxNonzero, Memory.wf_write h.txWf hlt, fun j hj => ?_⟩
    have hsucc : en.len.toNat + 1 ≤ j := succ_toNat_of_lt hlt ▸ hj
    exact (Memory.read_write_other h.txWf (show en.len.toNat ≠ j by omega)).trans (h.onlyPushed j (by omega))

/-! ## Every step keeps the invariant -/

theorem State.Inv.afterProgError_inv {s : State} {code : Byte} (h : s.Inv)
    (hcode : code = 0x09 ∨ code = 0x0A ∨ code = 0x0B) : (s.afterProgError code).Inv :=
  ⟨h.blk.afterProgError_inv hcode, h.cu, (s.afterProgError_cfg code).symm ▸ h.fd, h.en⟩

/-- The effect of every operation keeps the invariant. -/
theorem Effect.inv {i : Instr} {s t : State} (he : Effect s i t) (h : s.Inv) : t.Inv := by
  obtain ⟨hblk, hcu, hfd, hen⟩ := id h
  cases he with
  | refused | read | streamEnd => exact ⟨hblk, hcu, hfd, hen⟩
  | badIndex | zeroStx | overflow => exact h.afterProgError_inv (by decide)
  | reset => exact ⟨Blk.reset_inv, engine_clear_inv, Fd.reset_inv, En.reset_inv⟩
  | crcClr => exact ⟨hblk, engine_clear_inv, hfd, hen⟩
  | crcByte d => exact ⟨hblk, engFeed_inv _ d, hfd, hen⟩
  | cfgWr d =>
    refine ⟨hblk.cfgWritten_inv d, hcu, ?_, hen⟩
    dsimp only [State.respond_fd]
    split
    · next hmode => exact hfd.of_bufMode_eq hmode
    · exact Fd.reset_inv
  | frReset => exact ⟨hblk, hcu, Fd.reset_inv, hen⟩
  | frByte d => exact ⟨hblk, hcu, hfd.onByte_inv d, hen⟩
  | bufferEnd _ _ hend => exact ⟨hblk, hcu, hfd.bufferEnd_inv hend, hen⟩
  | encoder _ hw => exact ⟨hblk, hcu, hfd, hen.write_inv hw⟩

/-- Settles O59: the invariant does not speak of the issued words, and every effect and the programmer error of an illegal
word keep it. -/
theorem invariantKeptByEveryStep : Obligations.InvariantKeptByEveryStep := by
  unfold Obligations.InvariantKeptByEveryStep
  intro s t hs h
  exact step_keeps (P := State.Inv) (fun _ _ h => ⟨h.blk, h.cu, h.fd, h.en⟩) Effect.inv
    (fun _ h => h.afterProgError_inv (by decide)) hs h

end Sys2Proof.Machine

/-! The rules of 20_memory.md: a program is performed in the order of its words, the operations that only read are
repeatable, and the two stops of the model, in states no run reaches. -/

namespace Sys2Proof.Machine

open Sys2Proof

/-! ## The words still to come do not matter to an operation (20_memory.md R36) -/

/-- The outcome o, with the words ws issued where it is a next state. -/
def issueNext (ws : List OpWord) : StepResult → StepResult
  | .next t => .next (t.issue ws)
  | .fault f => .fault f
  | .refused r => .refused r

/-- The FAULT gate does not look at the issued words, so an outcome may be taken behind it. -/
theorem unlessFaulted_issue {s : State} {ws : List OpWord} {o o' : StepResult} (ho : o' = issueNext ws o) :
    unlessFaulted (s.issue ws) o' = issueNext ws (unlessFaulted s o) := by
  cases hf : s.blk.fault with
  | false => rw [unlessFaulted_of_running hf, unlessFaulted_of_running (s := s.issue ws) hf, ho]
  | true => rw [unlessFaulted_of_faulted hf, unlessFaulted_of_faulted (s := s.issue ws) hf]; rfl

theorem execRdData_issue (k : Byte) (s : State) (ws : List OpWord) :
    execRdData k (s.issue ws) = issueNext ws (execRdData k s) := by
  unfold execRdData
  split <;> rfl

theorem execFrByte_issue (d : Byte) (s : State) (ws : List OpWord) :
    execFrByte d (s.issue ws) = issueNext ws (execFrByte d s) := by
  refine unlessFaulted_issue ?_
  rw [State.issue_fd]
  split <;> rfl

theorem execFrEnd_issue (s : State) (ws : List OpWord) : execFrEnd (s.issue ws) = issueNext ws (execFrEnd s) := by
  refine unlessFaulted_issue ?_
  rw [State.issue_fd, State.issue_blk]
  split
  · split <;> rfl
  · rfl

theorem execEncSetStx_issue (d : Byte) (s : State) (ws : List OpWord) :
    execEncSetStx d (s.issue ws) = issueNext ws (execEncSetStx d s) := by
  refine unlessFaulted_issue ?_
  split <;> rfl

theorem execEncPush_issue (d : Byte) (s : State) (ws : List OpWord) :
    execEncPush d (s.issue ws) = issueNext ws (execEncPush d s) := by
  refine unlessFaulted_issue ?_
  rw [State.issue_en]
  split <;> rfl

/-- No operation reads or writes the issued words: they are there in the next state as they were before. -/
theorem exec_issue (i : Instr) (s : State) (ws : List OpWord) : exec i (s.issue ws) = issueNext ws (exec i s) := by
  cases i with
  | nop | rst | rdReg => rfl
  | crcClr | crcByte | crcRead | cfgWr | frReset | encClr | encSetCmd | encSetWake | encSetCrcHi | encSetCrcLo
  | encSetCrcAuto | encGo | classify => exact unlessFaulted_issue rfl
  | rdData k => exact execRdData_issue k s ws
  | frByte d => exact execFrByte_issue d s ws
  | frEnd => exact execFrEnd_issue s ws
  | encSetStx d => exact execEncSetStx_issue d s ws
  | encPush d => exact execEncPush_issue d s ws

/-- A step on the words of a program performs its first operation and leaves the words of the others issued. -/
theorem step_issue_cons {i : Instr} (hi : i.wellFormed = true) (s : State) (ws : List OpWord) :
    step (s.issue (encode i :: ws)) = issueNext ws (exec i s) := by
  rw [step_of_issued (s.issue_issued _), perform_encode hi, ← exec_issue]
  rfl

/-- Settles O48: by induction on the program, where each step is its first operation and leaves the rest of it issued. -/
theorem stepsRunTheIssuedProgramInOrder : Obligations.StepsRunTheIssuedProgramInOrder := by
  unfold Obligations.StepsRunTheIssuedProgramInOrder
  intro is
  induction is with
  | nil => intro s _ hs; rfl
  | cons i is ih =>
    intro s hwf hs
    obtain ⟨hi, his⟩ := List.forall_mem_cons.1 hwf
    rw [List.length_cons, List.map_cons, runSteps, step_issue_cons hi, execAll]
    cases h : exec i s with
    | next t => exact ih t his ((exec_answersOnce i s t h).issued.trans hs)
    | fault f => rfl
    | refused r => rfl

/-! ## The operations that only read (20_memory.md R33) -/

/-- An answer behind the FAULT gate that changes nothing does not depend on the earlier responses. -/
theorem unlessFaulted_answer_repeatable (s : State) (r : Response) : ∃ r', ∀ rs : List Response,
    unlessFaulted { s with responses := rs } (answer { s with responses := rs } r)
      = .next { s with responses := r' :: rs } := by
  cases hf : s.blk.fault with
  | false => exact ⟨r, fun rs => unlessFaulted_of_running (s := { s with responses := rs }) hf _⟩
  | true => exact ⟨.err 0x0C, fun rs => unlessFaulted_of_faulted (s := { s with responses := rs }) hf _⟩

/-- An operation that only reads gives one answer, whatever was answered before, and changes nothing. -/
theorem exec_of_readsOnly {i : Instr} (hread : i.readsOnly = true) (hwf : i.wellFormed = true) (s : State) :
    ∃ r, ∀ rs : List Response, exec i { s with responses := rs } = .next { s with responses := r :: rs } := by
  cases i with
  | nop => exact ⟨.none, fun _ => rfl⟩
  | rdReg r => exact ⟨.byte (s.reg r), fun _ => rfl⟩
  | rdData k => exact ⟨.byte (s.fd.rxbuf.read (rdDataIndex k)), fun _ => if_neg (rdData_wellFormed_iff.1 hwf)⟩
  | classify c =>
    exact unlessFaulted_answer_repeatable s (.byte (flagByte (isExtended c) ||| flagByte (knownCmd s.catalogue c) <<< 1))
  | crcRead => exact unlessFaulted_answer_repeatable s (.word (engFinal s.cu))
  | encGo => exact unlessFaulted_answer_repeatable s (s.en.goResponse s.blk.cfg s.catalogue)
  | _ => cases hread

/-- Settles O51: the six operations only read, so the first answer does not enter into the second. -/
theorem readingOperationsAreRepeatable : Obligations.ReadingOperationsAreRepeatable := by
  unfold Obligations.ReadingOperationsAreRepeatable
  intro i s hwf hlisted
  have hread : i.readsOnly = true := by
    cases i with
    | nop | rdReg | rdData | classify | crcRead | encGo => rfl
    | _ => cases hlisted
  obtain ⟨r, hr⟩ := exec_of_readsOnly hread hwf s
  exact ⟨r, hr s.responses, hr (r :: s.responses)⟩

/-! ## The two stops (20_memory.md R28 and R29, 41_framer_decode.md R80) -/

/-- How an operation begun in s can end: in a next state, or in one of the two stops. -/
inductive Ending (s : State) : Instr → StepResult → Prop
  | next (i : Instr) (t : State) : Ending s i (.next t)
  | noBufferByte (d : Byte) (hf : s.blk.fault = false) (hindex : s.fd.indexOutside = true) :
      Ending s (.frByte d) (.fault .noSuchBufferByte)
  | inCmd (hf : s.blk.fault = false) (hbuf : bufMode s.blk.cfg = true) (hcmd : s.fd.state = .cmd) :
      Ending s .frEnd (.refused .cmdBetweenOperations)

/-- Behind the FAULT gate an operation answers E_FAULTED or ends as its own outcome does. -/
theorem Ending.unlessFaulted {s : State} {i : Instr} {o : StepResult} (ho : s.blk.fault = false → Ending s i o) :
    Ending s i (unlessFaulted s o) := by
  cases hf : s.blk.fault with
  | false => rw [unlessFaulted_of_running hf]; exact ho hf
  | true => rw [unlessFaulted_of_faulted hf]; exact .next i _

/-- The end of a whole buffer has a case in every state but CMD. -/
theorem Fd.bufferEnd_eq_none_iff {fd : Fd} : fd.bufferEnd = none ↔ fd.state = .cmd := by
  unfold Fd.bufferEnd
  split <;> simp [*]

theorem execRdData_ending (k : Byte) (s : State) : Ending s (.rdData k) (execRdData k s) := by
  unfold execRdData
  split
  · rw [illegalOp_eq]; exact .next _ _
  · exact .next _ _

theorem execFrByte_ending (d : Byte) (s : State) : Ending s (.frByte d) (execFrByte d s) := by
  refine .unlessFaulted fun hf => ?_
  split
  · next hindex => exact .noBufferByte d hf hindex
  · exact .next _ _

theorem execFrEnd_ending (s : State) : Ending s .frEnd (execFrEnd s) := by
  refine .unlessFaulted fun hf => ?_
  split
  · next hbuf =>
    split
    · exact .next _ _
    · next hend => exact .inCmd hf hbuf (Fd.bufferEnd_eq_none_iff.1 hend)
  · exact .next _ _

theorem execEncSetStx_ending (d : Byte) (s : State) : Ending s (.encSetStx d) (execEncSetStx d s) := by
  refine .unlessFaulted fun _ => ?_
  split <;> exact .next _ _

theorem execEncPush_ending (d : Byte) (s : State) : Ending s (.encPush d) (execEncPush d s) := by
  refine .unlessFaulted fun _ => ?_
  split <;> exact .next _ _

/-- Every operation ends in a next state or in one of the two stops. -/
theorem exec_ending (i : Instr) (s : State) : Ending s i (exec i s) := by
  cases i with
  | nop | rst | rdReg => exact .next _ _
  | crcClr | crcByte | crcRead | cfgWr | frReset | encClr | encSetCmd | encSetWake | encSetCrcHi | encSetCrcLo
  | encSetCrcAuto | encGo | classify => exact .unlessFaulted fun _ => .next _ _
  | rdData k => exact execRdData_ending k s
  | frByte d => exact execFrByte_ending d s
  | frEnd => exact execFrEnd_ending s
  | encSetStx d => exact execEncSetStx_ending d s
  | encPush d => exact execEncPush_ending d s

/-- 255 is the one index that names no byte of RXBUF (20_memory.md R28). -/
theorem Fd.indexOutside_iff {fd : Fd} : fd.indexOutside = true ↔ fd.state = .data ∧ fd.dataCnt = 0xFF := by
  have hcnt : ¬ fd.rxIndex < bufferBytes ↔ fd.dataCnt = 0xFF := by
    simp only [Fd.rxIndex, bufferBytes]
    bv_omega
  simp only [Fd.indexOutside, Bool.and_eq_true, beq_iff_eq, Bool.not_eq_true', decide_eq_false_iff_not, hcnt]

theorem exec_fault_iff {i : Instr} {s : State} {f : Fault} : exec i s = .fault f ↔
    f = .noSuchBufferByte ∧ (∃ b, i = .frByte b) ∧ s.blk.fault = false ∧ s.fd.indexOutside = true := by
  constructor
  · intro h
    have hend := exec_ending i s
    rw [h] at hend
    cases hend with
    | noBufferByte d hf hindex => exact ⟨rfl, ⟨d, rfl⟩, hf, hindex⟩
  · rintro ⟨rfl, ⟨b, rfl⟩, hf, hindex⟩
    exact (unlessFaulted_of_running hf _).trans (if_pos hindex)

theorem exec_refused_iff {i : Instr} {s : State} {r : Refusal} : exec i s = .refused r ↔
    r = .cmdBetweenOperations ∧ i = .frEnd ∧ s.blk.fault = false ∧ bufMode s.blk.cfg = true ∧ s.fd.state = .cmd := by
  constructor
  · intro h
    have hend := exec_ending i s
    rw [h] at hend
    cases hend with
    | inCmd hf hbuf hcmd => exact ⟨rfl, rfl, hf, hbuf, hcmd⟩
  · rintro ⟨rfl, rfl, hf, hbuf, hcmd⟩
    refine (unlessFaulted_of_running hf _).trans ((if_pos hbuf).trans ?_)
    rw [Fd.bufferEnd_eq_none_iff.2 hcmd]

/-- In DATA FD.data_cnt is below FD.len, so the index it forms is at most 254 (20_memory.md R29). -/
theorem Fd.Inv.indexOutside_eq_false {cfg : Byte} {k : Catalogue} {fd : Fd} (h : fd.Inv cfg k) :
    fd.indexOutside = false := by
  by_cases hst : fd.state = .data
  · have := h.room hst
    exact Fd.indexOutside_of_lt (by omega)
  · exact Fd.indexOutside_of_not_data hst

/-- The invariant rules out both stops. -/
theorem State.Inv.exec_completes {s : State} (h : s.Inv) (i : Instr) : ∃ t, exec i s = .next t := by
  cases hexec : exec i s with
  | next t => exact ⟨t, rfl⟩
  | fault f =>
    obtain ⟨-, -, -, hindex⟩ := exec_fault_iff.1 hexec
    exact absurd hindex (by simp [h.fd.indexOutside_eq_false])
  | refused r =>
    obtain ⟨-, -, -, -, hcmd⟩ := exec_refused_iff.1 hexec
    exact absurd hcmd h.fd.notCmd

theorem State.Inv.perform_completes {s : State} (h : s.Inv) (w : OpWord) : ∃ t, perform w s = .next t := by
  cases hw : decode w with
  | legal i => rw [perform_of_legal hw]; exact h.exec_completes i
  | illegal why => rw [perform_of_illegal hw]; exact ⟨_, illegalOp_eq s⟩

theorem State.Inv.step_completes {s : State} (h : s.Inv) : ∃ t, step s = .next t := by
  cases hs : s.issued with
  | nil => exact ⟨s, step_of_idle hs⟩
  | cons w rest =>
    rw [step_of_issued hs]
    have hrest : State.Inv { s with issued := rest } := ⟨h.blk, h.cu, h.fd, h.en⟩
    exact hrest.perform_completes w

/-- Settles O60: the stops are the two endings that are no next state, and the invariant rules both out. -/
theorem stopsOnlyInStatesNoRunReaches : Obligations.StopsOnlyInStatesNoRunReaches := by
  unfold Obligations.StopsOnlyInStatesNoRunReaches
  refine ⟨fun i s f => ?_, fun i s r => exec_refused_iff, fun s => State.Inv.step_completes⟩
  rw [exec_fault_iff, Fd.indexOutside_iff]

end Sys2Proof.Machine

/-! The rules of 30_encoding.md: words and operations determine each other, the illegal words are the listed ones, the
answer of the CRC16 expansion, and the layout of a frame. -/

namespace Sys2Proof

/-! ## Encoding and decoding (30_encoding.md R43, R48) -/

/-- Settles O42: the fields of an operation's word are the ones the decoder reads the operation from. -/
theorem decodeOfEncodeIsTheOperation : Obligations.DecodeOfEncodeIsTheOperation := by
  unfold Obligations.DecodeOfEncodeIsTheOperation
  exact fun _ hi => decode_encode hi

/-- The decoder gives well-formed operations only: the word of RD_DATA 0xFF, the one ill-formed operation, is illegal. -/
theorem wellFormed_of_decode {w : OpWord} {i : Instr} (h : decode w = .legal i) : i.wellFormed = true := by
  cases i with
  | rdData k =>
    refine rdData_wellFormed_iff.2 fun hk => ?_
    subst hk
    have hw : w = 0xA0FF := (encode_of_decode h).symm
    rw [hw] at h
    exact absurd h (by decide)
  | _ => rfl

/-- Settles O43: what the decoder reads from a word is well-formed, and encoding it gives the word back. -/
theorem encodeOfDecodeIsTheWord : Obligations.EncodeOfDecodeIsTheWord := by
  unfold Obligations.EncodeOfDecodeIsTheWord
  exact fun _ _ h => ⟨wellFormed_of_decode h, encode_of_decode h⟩

/-- Settles O41: each of the words is evaluated. -/
theorem wordsOfTheMapDecode : Obligations.WordsOfTheMapDecode := by
  unfold Obligations.WordsOfTheMapDecode
  decide

/-! ## The illegal words (30_encoding.md R48) -/

/-- Bits 11:0 of a word are SEL and IMM. -/
theorem operandBits_eq_zero_iff {w : OpWord} : w &&& 0x0FFF = 0 ↔ selField w = 0 ∧ immField w = 0 := by
  refine ⟨fun h => ?_, fun h => operandBits_eq_zero h.1 h.2⟩
  have hsel : selField (w &&& 0x0FFF) = selField w := BitVec.extractLsb'_and.trans BitVec.and_allOnes
  have himm : immField (w &&& 0x0FFF) = immField w := BitVec.extractLsb'_and.trans BitVec.and_allOnes
  rw [← hsel, ← himm, h]
  exact ⟨rfl, rfl⟩

theorem exactWord_illegal {w : OpWord} {i : Instr} {why : IllegalWord} (h : exactWord w i = .illegal why) :
    ¬ (selField w = 0 ∧ immField w = 0) := fun hz => by
  simp [exactWord, hz] at h

theorem immWord_illegal {w : OpWord} {mk : Byte → Instr} {why : IllegalWord} (h : immWord w mk = .illegal why) :
    selField w ≠ 0 := fun hz => by
  simp [immWord, hz] at h

theorem rdRegWord_illegal {w : OpWord} {why : IllegalWord} (h : rdRegWord w = .illegal why) :
    immField w ≠ 0 := fun hz => by
  simp [rdRegWord, hz] at h

theorem rdDataWord_illegal {w : OpWord} {why : IllegalWord} (h : rdDataWord w = .illegal why) :
    selField w ≠ 0 ∨ immField w = 0xFF#8 := by
  by_contra hz
  rw [not_or, not_not] at hz
  simp [rdDataWord, hz] at h

theorem encSetWord_illegal_cases {w : OpWord} {why : IllegalWord} (h : encSetWord w = .illegal why) :
    (selField w).toNat ≥ 6 ∨ ((selField w).toNat = 5 ∧ immField w ≠ 0) := by
  unfold encSetWord at h
  split at h
  case h_6 hsel => exact .inr ⟨hsel, fun hz => by simp [hz] at h⟩
  case h_7 => exact .inl (by grind)
  all_goals cases h

/-- The five kinds of operation numbers (30_encoding.md R43). -/
theorem opField_kinds (w : OpWord) :
    (opField w).toNat ∈ [0x0, 0x1, 0x2, 0x4, 0x6, 0x8, 0xB, 0xE] ∨ (opField w).toNat ∈ [0x3, 0x5, 0x7, 0xD, 0xF]
      ∨ (opField w).toNat = 0x9 ∨ (opField w).toNat = 0xA ∨ (opField w).toNat = 0xC := by
  generalize opField w = op
  revert op
  decide

/-- The decoder rejects no other words than those of the five cases. -/
theorem table_of_illegal {w : OpWord} {why : IllegalWord} (h : decode w = .illegal why) : Machine.IllegalByTable w := by
  unfold Machine.IllegalByTable
  simp only [opField_toNat, selField_toNat, immField_toNat]
  obtain hop | hop | hop | hop | hop := opField_kinds w
  · obtain ⟨i, hi⟩ := decode_of_exactOp hop
    rw [hi] at h
    exact .inl ⟨hop, mt operandBits_eq_zero_iff.1 (exactWord_illegal h)⟩
  · obtain ⟨mk, hmk⟩ := decode_of_immOp hop
    rw [hmk] at h
    exact .inr (.inl ⟨hop, BitVec.toNat_ne.1 (immWord_illegal h)⟩)
  · simp only [decode, hop] at h
    exact .inr (.inr (.inl ⟨hop, BitVec.toNat_ne.1 (rdRegWord_illegal h)⟩))
  · simp only [decode, hop] at h
    refine .inr (.inr (.inr (.inl ⟨hop, ?_⟩)))
    exact (rdDataWord_illegal h).imp BitVec.toNat_ne.1 (congrArg BitVec.toNat)
  · simp only [decode, hop] at h
    refine .inr (.inr (.inr (.inr ⟨hop, ?_⟩)))
    exact (encSetWord_illegal_cases h).imp_right (And.imp_right BitVec.toNat_ne.1)

theorem illegal_iff_table (w : OpWord) : (∃ why, decode w = .illegal why) ↔ Machine.IllegalByTable w :=
  ⟨fun ⟨_, h⟩ => table_of_illegal h, illegal_of_table⟩

end Sys2Proof

namespace Sys2Proof.Machine

open Sys2Proof

/-- An illegal word takes the programmer-error action whatever the state (60_exceptions.md R105). -/
theorem raisesIllegalOp_of_table {w : OpWord} (h : IllegalByTable w) (s : State) : RaisesIllegalOp w s := by
  obtain ⟨why, hwhy⟩ := illegal_of_table h
  exact (perform_of_illegal hwhy s).trans (illegalOp_eq s)

/-- Settles O44: the cases of the table, one for each kind of operation number, are what the decoder rejects. -/
theorem illegalWordsAreExactlyTheListedOnes : Obligations.IllegalWordsAreExactlyTheListedOnes := by
  unfold Obligations.IllegalWordsAreExactlyTheListedOnes
  exact fun w => ⟨illegal_iff_table w, raisesIllegalOp_of_table⟩

/-! ## The CRC16 expansion (30_encoding.md R52) -/

theorem exec_crcClr_of_running {s : State} (hf : s.blk.fault = false) :
    exec .crcClr s = .next (State.respond { s with cu := .clear } .none) := unlessFaulted_of_running hf _

theorem exec_crcByte_of_running {s : State} (hf : s.blk.fault = false) (d : Byte) :
    exec (.crcByte d) s = .next (State.respond { s with cu := engFeed s.cu d } .none) := unlessFaulted_of_running hf _

theorem exec_crcRead_of_running {s : State} (hf : s.blk.fault = false) :
    exec .crcRead s = .next (s.respond (.word (engFinal s.cu))) := unlessFaulted_of_running hf _

/-- CRC_BYTE operations feed their bytes to CU in order and answer NONE each; CRC_READ answers what CU then reads as. -/
theorem execAll_crcByte_crcRead (b : List Byte) (s : State) (hf : s.blk.fault = false) :
    execAll (b.map .crcByte ++ [.crcRead]) s = .next
      { s with
        cu := b.foldl engFeed s.cu
        responses :=
          .word (engFinal (b.foldl engFeed s.cu)) :: (List.replicate b.length Response.none ++ s.responses) } := by
  induction b generalizing s with
  | nil => exact execAll_cons_of_next (exec_crcRead_of_running hf)
  | cons d rest ih =>
    rw [List.map_cons, List.cons_append, execAll_cons_of_next (exec_crcByte_of_running hf d),
      ih (State.respond { s with cu := engFeed s.cu d } .none) hf]
    simp [List.replicate_succ']

/-- Settles O16: CU is fed the bytes from clear, and reads as the reference checksum. -/
theorem crc16ExpansionAnswersTheReferenceChecksum : Obligations.Crc16ExpansionAnswersTheReferenceChecksum := by
  unfold Obligations.Crc16ExpansionAnswersTheReferenceChecksum
  intro b s hf
  refine ⟨engFeedAll b, ?_⟩
  rw [crc16Ops, execAll_cons_of_next (exec_crcClr_of_running hf),
    execAll_crcByte_crcRead b (State.respond { s with cu := .clear } .none) hf, ← engFinal_engFeedAll]
  simp [engFeedAll, List.replicate_succ']

/-! ## The layout of a frame (30_encoding.md R45) -/

theorem Memory.firstBytes_getElem? (m : Memory) {n k : Nat} (hk : k < n) :
    (m.firstBytes n)[k]? = some (m.read k) := by
  simp [Memory.firstBytes, hk]

@[simp] theorem En.span_length (en : En) : en.span.length = en.len.toNat + 2 := by simp [En.span]

section WireFrame
variable (wake stx : Byte) (span : List Byte) (crc : Word)

theorem wireFrame_length : (wireFrame wake stx span crc).length = wake.toNat + stx.toNat + span.length + 3 := by
  simp [wireFrame]
  omega

/-- The wakeup bytes come first. -/
theorem wireFrame_getElem?_wake {k : Nat} (hk : k < wake.toNat) : (wireFrame wake stx span crc)[k]? = some 0xFF#8 := by
  simp [wireFrame, List.getElem?_append_left, hk]

/-- The STX bytes follow the wakeup bytes. -/
theorem wireFrame_getElem?_stx {k : Nat} (hk : k < stx.toNat) :
    (wireFrame wake stx span crc)[wake.toNat + k]? = some 0x02#8 := by
  simp [wireFrame, List.getElem?_append, hk]

/-- The span follows the STX bytes. -/
theorem wireFrame_getElem?_span {k : Nat} (hk : k < span.length) :
    (wireFrame wake stx span crc)[wake.toNat + stx.toNat + k]? = span[k]? := by
  simp [wireFrame, List.getElem?_append, hk, Nat.add_assoc]

/-- The CRC and ETX follow the span. -/
theorem wireFrame_getElem?_trailer (k : Nat) :
    (wireFrame wake stx span crc)[wake.toNat + stx.toNat + span.length + k]? = [hi8 crc, lo8 crc, etxByte][k]? := by
  simp [wireFrame, List.getElem?_append, Nat.add_assoc]

end WireFrame

/-- Where ENC_GO answers bytes, they are the frame of the encoder's inputs; a CRC that was not supplied is that of the
span (42_encoder.md R89, R90). -/
theorem En.goResponse_bytes {cfg : Byte} {k : Catalogue} {en : En} {seq : List Byte}
    (h : en.goResponse cfg k = .bytes seq) :
    ∃ crc, seq = wireFrame en.wake en.stx en.span crc ∧ (en.crcV = false → crc = crc16 en.span) := by
  dsimp only [En.goResponse] at h
  split at h
  · cases h
  · split at h
    · cases h
    · split at h
      · cases h
      · exact ⟨_, (Response.bytes.inj h).symm, fun hv => by simp [hv]⟩

theorem exec_encGo_of_running {s : State} (hf : s.blk.fault = false) :
    exec .encGo s = .next (s.respond (s.en.goResponse s.blk.cfg s.catalogue)) := unlessFaulted_of_running hf _

/-- Settles O38: the answer is the frame of the encoder's inputs, and each offset falls in one of its parts. -/
theorem frameLayoutByOffsets : Obligations.FrameLayoutByOffsets := by
  unfold Obligations.FrameLayoutByOffsets
  intro s seq hf hexec w t n crc
  rw [exec_encGo_of_running hf] at hexec
  have hresponse : s.en.goResponse s.blk.cfg s.catalogue = .bytes seq :=
    (List.cons.inj (congrArg State.responses (Host.Outcome.next.inj hexec))).1
  obtain ⟨c, rfl, hc⟩ := En.goResponse_bytes hresponse
  have hlength : (wireFrame s.en.wake s.en.stx s.en.span c).length = w + t + n + 5 := by
    rw [wireFrame_length, En.span_length]
    omega
  have hspan : ∀ k, k < n + 2 → (wireFrame s.en.wake s.en.stx s.en.span c)[w + t + k]? = s.en.span[k]? :=
    fun k hk => wireFrame_getElem?_span _ _ _ _ (by rwa [En.span_length])
  have htrailer : ∀ k, (wireFrame s.en.wake s.en.stx s.en.span c)[w + t + (n + 2) + k]?
      = [hi8 c, lo8 c, etxByte][k]? := by
    have h := wireFrame_getElem?_trailer s.en.wake s.en.stx s.en.span c
    rwa [En.span_length] at h
  refine ⟨hlength, fun hstx => ?bounds, fun k => wireFrame_getElem?_wake _ _ _ _, fun k => wireFrame_getElem?_stx _ _ _ _,
    hspan 0 (by omega), hspan 1 (by omega), fun k hk => ?payload, fun hv => ?crcBytes, ?etx⟩
  case bounds =>
    have hpos : t ≠ 0 := BitVec.toNat_ne.1 hstx
    have hw := s.en.wake.isLt
    have ht := s.en.stx.isLt
    have hn := s.en.len.isLt
    omega
  case payload =>
    rw [Nat.add_assoc, hspan (2 + k) (by omega), Nat.add_comm 2 k]
    exact Memory.firstBytes_getElem? _ hk
  case crcBytes =>
    refine ⟨hi8 c, lo8 c, ?_, ?_, ?_⟩
    · rw [show w + t + 2 + n = w + t + (n + 2) + 0 by omega, htrailer]
      rfl
    · rw [show w + t + 3 + n = w + t + (n + 2) + 1 by omega, htrailer]
      rfl
    · rw [← be16_toNat, be16_hi8_lo8, hc hv]
      rfl
  case etx =>
    rw [show w + t + 4 + n = w + t + (n + 2) + 2 by omega, htrailer]
    rfl

end Sys2Proof.Machine

/-! The rules of 40_crc.md: the loop of crcstep bit by bit, the words crc16 feeds, the checksum as a remainder over GF(2),
and the three operations of the CRC unit. -/

namespace Sys2Proof.Machine

open Sys2Proof

/-! ## One turn of the loop (40_crc.md R53) -/

/-- Bit 0 is free after the shift, so adding 1 never carries: it sets that bit. -/
theorem shiftLeft_one_add_one (a : Word) : a <<< 1 + 1#16 = a <<< 1 ||| 1#16 := by
  refine BitVec.add_eq_or_of_and_eq_zero _ _ (BitVec.eq_of_getLsbD_eq fun k _ => ?_)
  cases k <;> simp

/-- Shifting a bit in from below, as the spec writes it. -/
theorem shiftConcat_eq_or (a : Word) (bit : Bool) :
    a.shiftConcat bit = a <<< 1 ||| (if bit then 0x0001#16 else 0x0000#16) := by
  refine BitVec.eq_of_getLsbD_eq fun k hk => ?_
  cases k <;> cases bit <;> simp [hk]

/-- A turn shifts the bit into the accumulator and reduces by the generator where a bit leaves at the top. -/
theorem crcBit_eq_shiftConcat (a : Word) (bit : Bool) :
    crcBit a bit = if a.msb then a.shiftConcat bit ^^^ crcPoly else a.shiftConcat bit := by
  rw [shiftConcat_eq_or]
  cases bit <;> simp [crcBit, shiftLeft_one_add_one]

/-- n turns take the n top bits of the word. -/
theorem crcTurns_eq_foldl (n : Nat) (acc w : Word) :
    crcTurns n acc w = ((List.range n).map w.getMsbD).foldl crcBit acc := by
  induction n generalizing acc w with
  | zero => rfl
  | succ n ih =>
    have htail : (w <<< 1).getMsbD = w.getMsbD ∘ Nat.succ := funext fun k => BitVec.getMsbD_shiftLeft w 1
    rw [crcTurns_succ, ih, htail, BitVec.msb_eq_getMsbD_zero, List.range_succ_eq_map, List.map_cons, List.map_map,
      List.foldl_cons]

theorem crcstep_eq_foldl (acc w : Word) : crcstep acc w = (wordBits w).foldl crcBit acc := crcTurns_eq_foldl 16 acc w

/-- Settles O11: the turns of the loop take the word's bits from the top, and a turn is the spec's. -/
theorem crcstepFeedsTheBitsOfAWordFromTheTop : Obligations.CrcstepFeedsTheBitsOfAWordFromTheTop := by
  unfold Obligations.CrcstepFeedsTheBitsOfAWordFromTheTop
  intro acc w
  rw [crcstep_eq_foldl]
  congr 1
  funext a bit
  rw [crcBit_eq_shiftConcat, shiftConcat_eq_or, BitVec.msb_eq_getLsbD_last]
  rfl

/-! ## The words crc16 feeds (40_crc.md R55) -/

theorem wordsAfterSeed_length : ∀ rest : List Byte, (wordsAfterSeed rest).length = rest.length / 2 + 1
  | [] => rfl
  | [_] => by simp [wordsAfterSeed]
  | x :: y :: rest => by
    rw [wordsAfterSeed, List.length_cons, wordsAfterSeed_length rest, List.length_cons, List.length_cons,
      Nat.add_assoc _ 1, Nat.add_div_right _ Nat.two_pos]

/-- Settles O12: the short inputs by evaluation, the others by the loop's fold and the number of its words. -/
theorem crcOfLongInputsFeedsPairsThenTheTail : Obligations.CrcOfLongInputsFeedsPairsThenTheTail := by
  unfold Obligations.CrcOfLongInputsFeedsPairsThenTheTail
  refine ⟨rfl, fun _ => rfl, fun _ _ => rfl, fun x y rest hne => ⟨crc16_eq_foldl x y hne, ?_⟩⟩
  rw [wordsAfterSeed_length, List.length_cons, List.length_cons, Nat.add_assoc, Nat.add_div_right _ Nat.two_pos]

/-! ## The engine (40_crc.md R60) -/

/-- Settles O15: the engine begins clear, and after any bytes it reads as their checksum. -/
theorem engineEqualsTheReferenceChecksum : Obligations.EngineEqualsTheReferenceChecksum := by
  unfold Obligations.EngineEqualsTheReferenceChecksum
  exact engFinal_engFeedAll

/-! ## Bit strings -/

/-- A word's bits are the high byte's and then the low byte's. -/
theorem wordBits_be16 (h l : Byte) : wordBits (be16 h l) = byteBits [h, l] := by
  simp [wordBits, byteBits, be16, List.range_succ, BitVec.getMsbD]

theorem byteBits_append (a b : List Byte) : byteBits (a ++ b) = byteBits a ++ byteBits b := List.flatMap_append

theorem byteBits_replicate_zero (n : Nat) : byteBits (List.replicate n 0x00) = List.replicate (8 * n) false := by
  induction n with
  | zero => rfl
  | succ n ih =>
    rw [List.replicate_succ, ← List.singleton_append, byteBits_append, ih, Nat.mul_succ, Nat.add_comm, List.replicate_add]
    rfl

/-- The bits fed after the seed are those of the bytes after the second one and the zero bytes of the tail. -/
theorem wordsAfterSeed_bits : ∀ rest : List Byte,
    (wordsAfterSeed rest).flatMap wordBits = byteBits (rest ++ List.replicate (2 - rest.length % 2) 0x00)
  | [] => rfl
  | [x] => by simp [wordsAfterSeed, wordBits_be16]
  | x :: y :: rest => by
    rw [wordsAfterSeed, List.flatMap_cons, wordBits_be16, wordsAfterSeed_bits rest, ← byteBits_append, List.length_cons,
      List.length_cons, Nat.add_assoc, Nat.add_mod_right]
    rfl

/-- A checksum of three bytes or more feeds one string of bits: after the seed, the other bytes and zero bytes behind them
that fill the last word, or are a word of their own. -/
theorem crc16_eq_foldl_bits {rest : List Byte} (x y : Byte) (hne : rest ≠ []) :
    crc16 (x :: y :: rest)
      = (byteBits (rest ++ List.replicate (2 - rest.length % 2) 0x00)).foldl crcBit (be16 x y) := by
  rw [crc16_eq_foldl x y hne, ← wordsAfterSeed_bits, List.foldl_flatMap]
  exact congrArg (fun f => List.foldl f _ _) (funext₂ crcstep_eq_foldl)

theorem wordBits_length (w : Word) : (wordBits w).length = 16 := by simp [wordBits]

/-- The bit that leaves at the top stands before the bits of the shifted word. -/
theorem wordBits_concat (a : Word) (bit : Bool) : wordBits a ++ [bit] = a.msb :: wordBits (a.shiftConcat bit) := by
  simp [wordBits, List.range_succ, BitVec.getMsbD, BitVec.msb_eq_getLsbD_last]

/-! ## Bit strings as polynomials over GF(2) (40_crc.md R56) -/

section Gf2

open Polynomial

/-- A bit string as a polynomial, its first bit the highest coefficient. -/
noncomputable def bitsPoly (bits : List Bool) : (ZMod 2)[X] :=
  bits.foldl (fun p bit => X * p + C (if bit then 1 else 0)) 0

/-- The modulus P(x) of R56; below x¹⁶ it is the generator 0x8005 (`crcModulus_eq`). -/
noncomputable def crcModulus : (ZMod 2)[X] := X ^ 16 + X ^ 15 + X ^ 2 + 1

theorem bitsPoly_concat (bits : List Bool) (bit : Bool) :
    bitsPoly (bits ++ [bit]) = X * bitsPoly bits + C (if bit then 1 else 0) := by
  simp [bitsPoly]

/-- A first bit stands above all the others. -/
theorem bitsPoly_cons (bit : Bool) (bits : List Bool) :
    bitsPoly (bit :: bits) = C (if bit then 1 else 0) * X ^ bits.length + bitsPoly bits := by
  induction bits using List.reverseRecOn with
  | nil => simp [bitsPoly]
  | append_singleton bits last ih =>
    rw [← List.cons_append, bitsPoly_concat, ih, bitsPoly_concat, List.length_append, List.length_singleton]
    ring

/-- Zeros behind a bit string multiply by a power of x. -/
theorem bitsPoly_append_replicate_false (bits : List Bool) (n : Nat) :
    bitsPoly (bits ++ List.replicate n false) = bitsPoly bits * X ^ n := by
  induction n with
  | zero => simp
  | succ n ih =>
    rw [List.replicate_succ', ← List.append_assoc, bitsPoly_concat, ih, if_neg Bool.false_ne_true, C_0]
    ring

theorem bitsPoly_degree_lt (bits : List Bool) : (bitsPoly bits).degree < bits.length := by
  induction bits with
  | nil => simp [bitsPoly]
  | cons bit bits ih =>
    have hlt : (bits.length : WithBot ℕ) < (bit :: bits).length := Nat.cast_lt.2 (Nat.lt_succ_self _)
    rw [bitsPoly_cons]
    exact (degree_add_le _ _).trans_lt (max_lt ((degree_C_mul_X_pow_le _ _).trans_lt hlt) (ih.trans hlt))

/-- The exclusive-or of bits is the sum of their coefficients. -/
theorem bitsPoly_map_xor (f g : Nat → Bool) (n : Nat) :
    bitsPoly ((List.range n).map fun k => f k ^^ g k)
      = bitsPoly ((List.range n).map f) + bitsPoly ((List.range n).map g) := by
  have hcoeff (a b : Bool) : (if a ^^ b then 1 else 0 : ZMod 2) = (if a then 1 else 0) + if b then 1 else 0 := by
    revert a b
    decide
  induction n with
  | zero => simp [bitsPoly]
  | succ n ih =>
    simp only [List.range_succ, List.map_append, List.map_singleton, bitsPoly_concat, ih, hcoeff, C_add]
    ring

theorem bitsPoly_wordBits_xor (a b : Word) :
    bitsPoly (wordBits (a ^^^ b)) = bitsPoly (wordBits a) + bitsPoly (wordBits b) := by
  rw [wordBits, funext fun k => BitVec.getMsbD_xor (x := a) (y := b) (i := k)]
  exact bitsPoly_map_xor _ _ _

theorem bitsPoly_wordBits_crcPoly : bitsPoly (wordBits crcPoly) = X ^ 15 + X ^ 2 + 1 := by
  have hbits : wordBits crcPoly = [true] ++ List.replicate 12 false ++ [true] ++ [false] ++ [true] := by decide
  have htop : bitsPoly [true] = 1 := by simp [bitsPoly]
  rw [hbits, bitsPoly_concat, bitsPoly_concat, bitsPoly_concat, bitsPoly_append_replicate_false, htop, if_pos rfl,
    if_neg Bool.false_ne_true, C_0, C_1]
  ring

theorem crcModulus_eq : crcModulus = X ^ 16 + bitsPoly (wordBits crcPoly) := by
  rw [bitsPoly_wordBits_crcPoly, crcModulus]
  ring

theorem bitsPoly_wordBits_degree_lt (w : Word) : (bitsPoly (wordBits w)).degree < (16 : ℕ) :=
  wordBits_length w ▸ bitsPoly_degree_lt (wordBits w)

theorem crcModulus_monic : crcModulus.Monic := by
  rw [crcModulus_eq]
  exact monic_X_pow_add (bitsPoly_wordBits_degree_lt crcPoly)

theorem crcModulus_degree : crcModulus.degree = (16 : ℕ) := by
  rw [crcModulus_eq]
  have htop : (X ^ 16 : (ZMod 2)[X]).degree = (16 : ℕ) := degree_X_pow 16
  exact (degree_add_eq_left_of_degree_lt (htop ▸ bitsPoly_wordBits_degree_lt crcPoly)).trans htop

/-- A word is its own remainder. -/
theorem bitsPoly_wordBits_modByMonic (w : Word) : bitsPoly (wordBits w) %ₘ crcModulus = bitsPoly (wordBits w) :=
  (modByMonic_eq_self_iff crcModulus_monic).2 (crcModulus_degree ▸ bitsPoly_wordBits_degree_lt w)

/-- A turn of the loop is a step of the division: the bit that leaves at the top is the quotient. -/
theorem bitsPoly_crcBit (a : Word) (bit : Bool) :
    bitsPoly (wordBits (crcBit a bit)) = bitsPoly (wordBits a ++ [bit]) %ₘ crcModulus := by
  have hdiv : bitsPoly (wordBits (crcBit a bit)) + crcModulus * C (if a.msb then 1 else 0)
      = bitsPoly (wordBits a ++ [bit]) := by
    rw [wordBits_concat, bitsPoly_cons, wordBits_length, crcBit_eq_shiftConcat, crcModulus_eq]
    cases a.msb
    · simp
    · have hself := CharTwo.add_self_eq_zero (bitsPoly (wordBits crcPoly))
      simp only [if_true, bitsPoly_wordBits_xor, C_1]
      linear_combination hself
  exact ((div_modByMonic_unique _ _ crcModulus_monic ⟨hdiv, crcModulus_degree ▸ bitsPoly_wordBits_degree_lt _⟩).2).symm

/-- Reducing before a step of the division does not change the remainder after it. -/
theorem step_modByMonic (p c : (ZMod 2)[X]) :
    (X * (p %ₘ crcModulus) + c) %ₘ crcModulus = (X * p + c) %ₘ crcModulus :=
  modByMonic_eq_of_dvd_sub crcModulus_monic ⟨-(X * (p /ₘ crcModulus)), by rw [modByMonic_eq_sub_mul_div]; ring⟩

/-- Feeding bits into the accumulator leaves the remainder of its bits and theirs. -/
theorem bitsPoly_foldl_crcBit (a : Word) (bits : List Bool) :
    bitsPoly (wordBits (bits.foldl crcBit a)) = bitsPoly (wordBits a ++ bits) %ₘ crcModulus := by
  induction bits using List.reverseRecOn with
  | nil => simp [bitsPoly_wordBits_modByMonic]
  | append_singleton bits bit ih =>
    rw [List.foldl_concat, bitsPoly_crcBit, ← List.append_assoc, bitsPoly_concat, bitsPoly_concat, ih, step_modByMonic]

/-- The checksum of three bytes or more is a remainder, by the zero bytes of the tail (40_crc.md R56). -/
theorem bitsPoly_crc16 {b : List Byte} (hlen : 3 ≤ b.length) :
    bitsPoly (wordBits (crc16 b)) = (bitsPoly (byteBits b) * X ^ (8 * (2 - b.length % 2))) %ₘ crcModulus := by
  match b with
  | [] | [_] | [_, _] => simp at hlen
  | x :: y :: c :: rest =>
    have hmod : (x :: y :: c :: rest).length % 2 = (c :: rest).length % 2 := Nat.add_mod_right (c :: rest).length 2
    rw [crc16_eq_foldl_bits x y (List.cons_ne_nil _ _), bitsPoly_foldl_crcBit, wordBits_be16, ← byteBits_append,
      ← List.append_assoc, byteBits_append, byteBits_replicate_zero, bitsPoly_append_replicate_false, hmod]
    rfl

/-- Settles O13: the length says how many zero bits the loop feeds behind the input's own, and every bit fed is a step of
the division. -/
theorem crcIsARemainderOverGf2 : Obligations.CrcIsARemainderOverGf2 := by
  unfold Obligations.CrcIsARemainderOverGf2
  intro poly modulus b
  refine ⟨fun hlen => ?short, fun hlen => ?pair, fun hlen hodd => ?odd, fun hlen heven => ?even, fun acc bit => ?turn⟩
  case short =>
    match b, hlen with
    | [], _ | [_], _ => rfl
  case pair =>
    obtain ⟨x, y, rfl⟩ := List.length_eq_two.1 hlen
    exact congrArg poly (wordBits_be16 x y)
  case odd =>
    have hrem := bitsPoly_crc16 hlen
    rwa [hodd] at hrem
  case even =>
    have hrem := bitsPoly_crc16 (b := b) (by omega)
    rwa [heven] at hrem
  case turn => exact (bitsPoly_crcBit acc bit).trans (congrArg (· %ₘ modulus) (bitsPoly_concat _ _))

end Gf2

/-! ## The words of an operation, and the illegal ones beside them (30_encoding.md R48) -/

theorem top_or_operandBits (w : OpWord) : w >>> 12 <<< 12 ||| w &&& 0x0FFF = w := by
  ext k hk
  interval_cases k <;> simp

/-- A word is determined by OP and the bits below it. -/
theorem eq_of_top_of_operandBits {v w : OpWord} (htop : v >>> 12 = w >>> 12) (hlow : v &&& 0x0FFF = w &&& 0x0FFF) :
    v = w := by
  rw [← top_or_operandBits v, htop, hlow, top_or_operandBits]

/-- An operation without operands has one word: a word with its OP and other operand bits is illegal. -/
theorem encodedExactly_of_op {i : Instr} {w : OpWord} (hdec : decode w = .legal i)
    (hop : (w >>> 12).toNat ∈ [0x0, 0x1, 0x2, 0x4, 0x6, 0x8, 0xB, 0xE]) (hlow : w &&& 0x0FFF = 0) : EncodedExactly i w :=
  ⟨hdec, fun _ s htop hne => raisesIllegalOp_of_table
    (.inl ⟨htop ▸ hop, fun hv => hne (eq_of_top_of_operandBits htop (hv.trans hlow.symm))⟩) s⟩

/-- The byte of an operation with IMM only stands in the bits that are zero in its word for 0x00. -/
theorem makeWord_eq_or (op : BitVec 4) (d : Byte) : makeWord op 0 d = makeWord op 0 0 ||| d.setWidth 16 := by
  simp [makeWord]

/-- An operation with IMM only has a word for each byte, and a word with its OP and another SEL is illegal. -/
theorem encodedWithImm_of_op {mk : Byte → Instr} {op : BitVec 4} {w : OpWord} (hw : makeWord op 0 0 = w)
    (hdec : ∀ d, decode (makeWord op 0 d) = .legal (mk d)) (hop : (w >>> 12).toNat ∈ [0x3, 0x5, 0x7, 0xD, 0xF]) :
    EncodedWithImm mk w := by
  refine ⟨fun d => ?_, fun _ s htop hsel => raisesIllegalOp_of_table
    (.inr (.inl ⟨htop ▸ hop, fun hz => hsel (BitVec.eq_of_toNat_eq hz)⟩)) s⟩
  rw [← hw, ← makeWord_eq_or, hdec]

/-! ## The CRC unit (40_crc.md R61 to R63) -/

/-- Settles O8: the gate, and the one word of the operation. -/
theorem crcClrClearsTheUnit : Obligations.CrcClrClearsTheUnit := by
  unfold Obligations.CrcClrClearsTheUnit
  exact ⟨encodedExactly_of_op (by decide) (by decide) (by decide),
    fun s => ⟨exec_crcClr_of_running, fun hf => unlessFaulted_of_faulted hf _⟩⟩

/-- Settles O9: engFeed by the phases of CU. -/
theorem crcByteFeedsOneByte : Obligations.CrcByteFeedsOneByte := by
  unfold Obligations.CrcByteFeedsOneByte
  refine ⟨encodedWithImm_of_op rfl (fun d => decode_encode (i := .crcByte d) rfl) (by decide),
    fun d s => ⟨fun hf => ?_, fun hf => unlessFaulted_of_faulted hf _⟩⟩
  rw [exec_crcByte_of_running hf]
  obtain ⟨blk, ⟨ph, acc, hold⟩, fd, en⟩ := s
  cases ph <;> rfl

/-- Settles O10: engFinal by the phases of CU. -/
theorem crcReadAnswersTheChecksum : Obligations.CrcReadAnswersTheChecksum := by
  unfold Obligations.CrcReadAnswersTheChecksum
  refine ⟨encodedExactly_of_op (by decide) (by decide) (by decide),
    fun s => ⟨fun hf => ?_, fun hf => unlessFaulted_of_faulted hf _⟩⟩
  rw [exec_crcRead_of_running hf]
  obtain ⟨blk, ⟨ph, acc, hold⟩, fd, en⟩ := s
  cases ph <;> rfl

end Sys2Proof.Machine

/-! The rules of 41_framer_decode.md: one equation for each state of the decoder and kind of byte, the ends of a buffer,
the run of the decoder over a frame, and what follows of it for damaged frames, resynchronisation and the round trip. -/

namespace Sys2Proof.Machine

open Sys2Proof

/-! ## One byte in each state (41_framer_decode.md R65 to R78) -/

section OnByte
variable {cfg : Byte} {k : Catalogue} {fd : Fd} {b : Byte}

theorem Fd.onByte_wakeup_of_wakeup (hst : fd.state = .wakeup) :
    fd.onByte cfg k 0xFF = ({ fd.inProgress with wakeCnt := satInc8 fd.inProgress.wakeCnt }, .none) := by
  simp [Fd.onByte, hst, Fd.onWakeup, Fd.openFrame_eq]

theorem Fd.onByte_stx_of_wakeup (hst : fd.state = .wakeup) :
    fd.onByte cfg k 0x02 = ({ fd.inProgress with stxCnt := 1, state := .stx }, .none) := by
  simp [Fd.onByte, hst, Fd.onWakeup, Fd.openFrame_eq]

/-- A byte that is no marker ends WAKEUP without an STX. -/
theorem Fd.onByte_other_of_wakeup (hst : fd.state = .wakeup) (hff : b ≠ 0xFF) (h02 : b ≠ 0x02) :
    fd.onByte cfg k b = (fd.inProgress.afterError (cfg.getLsbD 1) 0x01 b false, .err 0x01) := by
  simp [Fd.onByte, hst, Fd.onWakeup, Fd.takeMarker_other hff h02, Fd.decodeError_eq, Fd.openFrame_eq, ErrCode.code]

/-- HUNT is left by the two markers only. -/
theorem Fd.onByte_of_hunt (hst : fd.state = .hunt) : fd.onByte cfg k b = (fd.hunt b, .none) := by
  simp [Fd.onByte, hst, Fd.onHunt]

theorem Fd.onByte_stx_of_stx (hst : fd.state = .stx) :
    fd.onByte cfg k 0x02 = ({ fd with stxCnt := satInc8 fd.stxCnt }, .none) := by
  simp [Fd.onByte, hst, Fd.onStx]

/-- Any other byte than an STX is the command byte. -/
theorem Fd.onByte_command_of_stx (hst : fd.state = .stx) (hb : b ≠ 0x02) :
    fd.onByte cfg k b = Fd.onCmd cfg k { fd with state := .cmd } b := by
  simp only [Fd.onByte, hst, Fd.onStx]
  exact if_neg hb

/-- An STX byte is no extended command byte (41_framer_decode.md R68). -/
theorem Extended.ne_stx (hb : Extended b) : b ≠ 0x02 := by
  rintro rfl
  exact absurd hb.1 (by decide)

theorem Fd.onCmd_of_not_extended (hb : ¬ Extended b) :
    fd.onCmd cfg k b = (fd.afterError (cfg.getLsbD 1) 0x02 b true, .err 0x02) := by
  have hext : isExtended b = false := Bool.eq_false_iff.2 (mt (isExtended_iff b).1 hb)
  simp [Fd.onCmd, hext, Fd.decodeError_eq, ErrCode.code]

theorem Fd.onCmd_of_not_known (hb : Extended b) (hk : ¬ Known k b) :
    fd.onCmd cfg k b = (fd.afterError (cfg.getLsbD 1) 0x03 b true, .err 0x03) := by
  have hknown : knownCmd k b = false := Bool.eq_false_iff.2 (mt (knownCmd_iff k b).1 hk)
  simp [Fd.onCmd, (isExtended_iff b).2 hb, hknown, Fd.decodeError_eq, ErrCode.code]

theorem Fd.onCmd_of_known (hk : Known k b) :
    fd.onCmd cfg k b = ({ fd with cmd := b, eng := engFeed fd.eng b, state := .len }, .none) := by
  simp [Fd.onCmd, (isExtended_iff b).2 hk.1, (knownCmd_iff k b).2 hk]

theorem Fd.onByte_of_len (hst : fd.state = .len) : fd.onByte cfg k b = fd.onLen b := by simp [Fd.onByte, hst]

theorem Fd.onByte_of_data (hst : fd.state = .data) : fd.onByte cfg k b = fd.onData b := by simp [Fd.onByte, hst]

theorem Fd.onByte_of_crcHi (hst : fd.state = .crcHi) : fd.onByte cfg k b = fd.onCrcHi b := by simp [Fd.onByte, hst]

/-- The CRC is not checked, or it is the computed one. -/
theorem Fd.onByte_match_of_crcLo (hst : fd.state = .crcLo)
    (hcrc : verifyOn cfg = true → be16 (hi8 fd.crcRx) b = engFinal fd.eng) :
    fd.onByte cfg k b
      = ({ fd with crcRx := be16 (hi8 fd.crcRx) b, crcCalc := engFinal fd.eng, state := .etx }, .none) := by
  simp only [Fd.onByte, hst, Fd.onCrcLo]
  exact if_neg (by simpa using hcrc)

theorem Fd.onByte_mismatch_of_crcLo (hst : fd.state = .crcLo) (hverify : verifyOn cfg = true)
    (hcrc : be16 (hi8 fd.crcRx) b ≠ engFinal fd.eng) :
    fd.onByte cfg k b
      = (Fd.afterError { fd with crcRx := be16 (hi8 fd.crcRx) b, crcCalc := engFinal fd.eng } (cfg.getLsbD 1) 0x04 b
          false, .err 0x04) := by
  simp only [Fd.onByte, hst, Fd.onCrcLo, Fd.decodeError_eq]
  exact if_pos (by simp [hverify, hcrc])

theorem Fd.onByte_other_of_etx (hst : fd.state = .etx) (hb : b ≠ 0x03) :
    fd.onByte cfg k b = (fd.afterError (cfg.getLsbD 1) 0x05 b true, .err 0x05) := by
  simp only [Fd.onByte, hst, Fd.onEtx, Fd.decodeError_eq]
  exact if_pos hb

theorem Fd.onByte_etx_of_buffer (hst : fd.state = .etx) (hmode : bufMode cfg = true) :
    fd.onByte cfg k 0x03 = ({ fd with state := .done }, .none) := by
  simp [Fd.onByte, hst, Fd.onEtx, hmode]

theorem Fd.onByte_etx_of_stream (hst : fd.state = .etx) (hmode : bufMode cfg = false) :
    fd.onByte cfg k 0x03 = ({ fd with frameValid := true, inframe := false, state := .wakeup }, .frameOk) := by
  simp [Fd.onByte, hst, Fd.onEtx, hmode]

theorem Fd.onByte_of_done (hst : fd.state = .done) :
    fd.onByte cfg k b = (fd.afterError (cfg.getLsbD 1) 0x06 b false, .err 0x06) := by
  simp [Fd.onByte, hst, Fd.onDone, Fd.decodeError_eq, ErrCode.code]

theorem Fd.onByte_of_discard (hst : fd.state = .discard) : fd.onByte cfg k b = (fd, .none) := by
  simp [Fd.onByte, hst, Fd.onDiscard]

end OnByte

/-- Only DATA forms an index. -/
theorem Fd.indexOutside_of_state {fd : Fd} {st : FdState} (hst : fd.state = st) (hne : st ≠ .data) :
    fd.indexOutside = false := Fd.indexOutside_of_not_data (hst ▸ hne)

/-- FR_BYTE puts what the decoder does with the byte back into the machine (41_framer_decode.md R79). -/
theorem exec_frByte {b : Byte} {s : State} {out : Fd × Response} (hf : s.blk.fault = false)
    (hindex : s.fd.indexOutside = false) (hout : s.fd.onByte s.blk.cfg s.catalogue b = out) :
    exec (.frByte b) s = .next { s with fd := out.1, responses := out.2 :: s.responses } :=
  hout ▸ execFrByte_of_running hf hindex

/-- FR_BYTE in a state that stores nothing in RXBUF. -/
theorem exec_frByte_of_state {b : Byte} {s : State} {st : FdState} {out : Fd × Response} (hf : s.blk.fault = false)
    (hst : s.fd.state = st) (hout : s.fd.onByte s.blk.cfg s.catalogue b = out) (hne : st ≠ .data := by decide) :
    exec (.frByte b) s = .next { s with fd := out.1, responses := out.2 :: s.responses } :=
  exec_frByte hf (Fd.indexOutside_of_state hst hne) hout

/-- Settles O17: WAKEUP on its two markers and on any other byte. -/
theorem wakeupStateRule : Obligations.WakeupStateRule := by
  unfold Obligations.WakeupStateRule
  intro s hf hst
  exact ⟨exec_frByte_of_state hf hst (Fd.onByte_wakeup_of_wakeup hst),
    exec_frByte_of_state hf hst (Fd.onByte_stx_of_wakeup hst),
    fun b hff h02 => exec_frByte_of_state hf hst (Fd.onByte_other_of_wakeup hst hff h02)⟩

/-- A marker starts the frame that WAKEUP would start with it outside a frame (41_framer_decode.md R66). -/
theorem Fd.onByte_marker_of_hunt {cfg b : Byte} {k : Catalogue} {fd : Fd} (hst : fd.state = .hunt)
    (hb : isMarker b = true) :
    fd.onByte cfg k b = Fd.onByte cfg k { fd with state := .wakeup, inframe := false } b := by
  obtain rfl | rfl := isMarker_iff.1 hb
  · exact (Fd.onByte_of_hunt hst).trans (Fd.onByte_wakeup_of_wakeup rfl).symm
  · exact (Fd.onByte_of_hunt hst).trans (Fd.onByte_stx_of_wakeup rfl).symm

/-- A byte that is neither 0xFF nor 0x02 is no marker. -/
theorem isMarker_eq_false {b : Byte} (hff : b ≠ 0xFF) (h02 : b ≠ 0x02) : isMarker b = false :=
  Bool.eq_false_iff.2 fun h => (isMarker_iff.1 h).elim hff h02

/-- Settles O18: HUNT on its two markers and on any other byte, and beside WAKEUP. -/
theorem huntStateRule : Obligations.HuntStateRule := by
  unfold Obligations.HuntStateRule
  intro s hf hst
  refine ⟨exec_frByte_of_state hf hst (Fd.onByte_of_hunt hst), exec_frByte_of_state hf hst (Fd.onByte_of_hunt hst),
    fun b hff h02 => ?discarded, fun b hb => ?asWakeup⟩
  case discarded =>
    rw [exec_frByte_of_state hf hst (Fd.onByte_of_hunt hst), Fd.hunt_discards (isMarker_eq_false hff h02)]
  case asWakeup =>
    rw [exec_frByte_of_state hf hst (Fd.onByte_marker_of_hunt hst (isMarker_iff.2 hb))]
    exact (exec_frByte_of_state (s := { s with fd := { s.fd with state := .wakeup, inframe := false } }) (st := .wakeup)
      hf rfl rfl).symm

/-- Settles O19: STX on a further STX byte, and on the three kinds of command byte; the two errors replace the CMD that
FD.state holds while the byte is handled. -/
theorem stxAndCommandByteRule : Obligations.StxAndCommandByteRule := by
  unfold Obligations.StxAndCommandByteRule
  intro s hf hst
  refine ⟨exec_frByte_of_state hf hst (Fd.onByte_stx_of_stx hst), fun b hb hext => ?legacy, fun b hext hk => ?unknown,
    fun b hk => ?known⟩
  case legacy =>
    exact exec_frByte_of_state hf hst ((Fd.onByte_command_of_stx hst hb).trans (Fd.onCmd_of_not_extended hext))
  case unknown =>
    exact exec_frByte_of_state hf hst ((Fd.onByte_command_of_stx hst hext.ne_stx).trans (Fd.onCmd_of_not_known hext hk))
  case known =>
    exact exec_frByte_of_state hf hst ((Fd.onByte_command_of_stx hst hk.1.ne_stx).trans (Fd.onCmd_of_known hk))

/-- Settles O20: LEN on any byte; the byte 0x00 is the number 0. -/
theorem lenStateRule : Obligations.LenStateRule := by
  unfold Obligations.LenStateRule
  intro b s hf hst
  have hzero : b.toNat = 0 ↔ b = 0 := (BitVec.toNat_eq (y := 0)).symm
  simp only [hzero]
  exact exec_frByte_of_state hf hst (Fd.onByte_of_len hst)

/-- While a payload byte is missing, the index it will take names a byte of RXBUF (20_memory.md R29). -/
theorem Fd.dataCnt_lt_of_lt_len {fd : Fd} (hroom : fd.dataCnt.toNat < fd.len.toNat) : fd.dataCnt.toNat < 255 := by
  have := fd.len.isLt
  omega

/-- The byte counted last is the last one of the payload. -/
theorem Fd.dataCnt_succ_eq_len_iff {fd : Fd} (hroom : fd.dataCnt.toNat < fd.len.toNat) :
    fd.dataCnt + 1 = fd.len ↔ fd.dataCnt.toNat + 1 = fd.len.toNat := by
  rw [BitVec.toNat_eq, succ_toNat_of_lt (Fd.dataCnt_lt_of_lt_len hroom)]

/-- Settles O21: DATA writes RXBUF at the count of the bytes before. -/
theorem dataStateRule : Obligations.DataStateRule := by
  unfold Obligations.DataStateRule
  intro b s hf hst hwf hroom
  have hindex := Fd.dataCnt_lt_of_lt_len hroom
  refine ⟨s.fd.rxbuf.write s.fd.rxIndex b, ?_, fun j => ?_, Memory.wf_write hwf hindex⟩
  · simp only [← Fd.dataCnt_succ_eq_len_iff hroom]
    exact exec_frByte hf (Fd.indexOutside_of_lt hindex) (Fd.onByte_of_data hst)
  · exact (Memory.read_write hwf).trans (if_congr eq_comm rfl rfl)

theorem hi8_toNat (w : Word) : (hi8 w).toNat = w.toNat / 256 := by
  have := w.isLt
  simp only [hi8, BitVec.extractLsb'_toNat, Nat.shiftRight_eq_div_pow]
  omega

theorem lo8_toNat (w : Word) : (lo8 w).toNat = w.toNat % 256 := by
  simp [lo8, BitVec.extractLsb'_toNat]

/-- Settles O22: CRC_HI keeps the low byte of FD.crc_rx. -/
theorem crcHiStateRule : Obligations.CrcHiStateRule := by
  unfold Obligations.CrcHiStateRule
  intro b s hf hst
  refine ⟨be16 b (lo8 s.fd.crcRx), exec_frByte_of_state hf hst (Fd.onByte_of_crcHi hst), ?_⟩
  rw [be16_toNat, lo8_toNat]

/-- Settles O23: CRC_LO keeps the high byte of FD.crc_rx, and compares under VERIFY. -/
theorem crcLoStateRule : Obligations.CrcLoStateRule := by
  unfold Obligations.CrcLoStateRule
  intro b s hf hst
  refine ⟨be16 (hi8 s.fd.crcRx) b, by rw [be16_toNat, hi8_toNat], fun hverify hne => ?mismatch,
    fun hmatch => ?latched⟩
  case mismatch => exact exec_frByte_of_state hf hst (Fd.onByte_mismatch_of_crcLo hst hverify hne)
  case latched =>
    refine exec_frByte_of_state hf hst (Fd.onByte_match_of_crcLo hst fun hverify => ?_)
    exact hmatch.resolve_left (Bool.not_eq_false _ ▸ hverify)

/-- Settles O24: ETX on another byte, and on 0x03 in the two modes. -/
theorem etxStateRule : Obligations.EtxStateRule := by
  unfold Obligations.EtxStateRule
  intro b s hf hst
  refine ⟨fun hb => exec_frByte_of_state hf hst (Fd.onByte_other_of_etx hst hb), ?_, ?_⟩
  · rintro rfl hmode
    exact exec_frByte_of_state hf hst (Fd.onByte_etx_of_buffer hst hmode)
  · rintro rfl hmode
    exact exec_frByte_of_state hf hst (Fd.onByte_etx_of_stream hst hmode)

/-- Settles O25: DONE reports any byte, DISCARD none. -/
theorem doneAndDiscardStateRules : Obligations.DoneAndDiscardStateRules := by
  unfold Obligations.DoneAndDiscardStateRules
  exact fun b s hf => ⟨fun hst => exec_frByte_of_state hf hst (Fd.onByte_of_done hst),
    fun hst => exec_frByte_of_state hf hst (Fd.onByte_of_discard hst)⟩

/-! ## FR_BYTE whatever the state (41_framer_decode.md R79) -/

/-- What FR_BYTE can answer: NONE, FRAME_OK, or the code of a decoder error. -/
def Response.IsFrByteAnswer (r : Response) : Prop :=
  r = .none ∨ r = .frameOk ∨ ∃ e : Byte, 0x01 ≤ e.toNat ∧ e.toNat ≤ 0x06 ∧ r = .err e

theorem Response.isFrByteAnswer_err {e : Byte} (hmin : 0x01 ≤ e.toNat) (hmax : e.toNat ≤ 0x06) :
    (Response.err e).IsFrByteAnswer := .inr (.inr ⟨e, hmin, hmax, rfl⟩)

theorem Fd.onWakeup_answer (cfg : Byte) (fd : Fd) (b : Byte) : (fd.onWakeup cfg b).2.IsFrByteAnswer := by
  unfold Fd.onWakeup
  split
  · exact .inl rfl
  · rw [Fd.decodeError_response]
    exact Response.isFrByteAnswer_err (by decide) (by decide)

theorem Fd.onCmd_answer (cfg : Byte) (k : Catalogue) (fd : Fd) (b : Byte) : (fd.onCmd cfg k b).2.IsFrByteAnswer := by
  by_cases hext : Extended b
  · by_cases hk : Known k b
    · rw [Fd.onCmd_of_known hk]
      exact .inl rfl
    · rw [Fd.onCmd_of_not_known hext hk]
      exact Response.isFrByteAnswer_err (by decide) (by decide)
  · rw [Fd.onCmd_of_not_extended hext]
    exact Response.isFrByteAnswer_err (by decide) (by decide)

theorem Fd.onStx_answer (cfg : Byte) (k : Catalogue) (fd : Fd) (b : Byte) : (fd.onStx cfg k b).2.IsFrByteAnswer := by
  unfold Fd.onStx
  split
  · exact .inl rfl
  · exact Fd.onCmd_answer cfg k _ b

theorem Fd.onCrcLo_answer (cfg : Byte) (fd : Fd) (b : Byte) : (fd.onCrcLo cfg b).2.IsFrByteAnswer := by
  dsimp only [Fd.onCrcLo]
  split
  · rw [Fd.decodeError_response]
    exact Response.isFrByteAnswer_err (by decide) (by decide)
  · exact .inl rfl

theorem Fd.onEtx_answer (cfg : Byte) (fd : Fd) (b : Byte) : (fd.onEtx cfg b).2.IsFrByteAnswer := by
  unfold Fd.onEtx
  split
  · rw [Fd.decodeError_response]
    exact Response.isFrByteAnswer_err (by decide) (by decide)
  · split
    · exact .inl rfl
    · exact .inr (.inl rfl)

theorem Fd.onByte_answer (cfg : Byte) (k : Catalogue) (fd : Fd) (b : Byte) : (fd.onByte cfg k b).2.IsFrByteAnswer := by
  unfold Fd.onByte
  cases fd.state with
  | wakeup => exact Fd.onWakeup_answer cfg fd b
  | stx => exact Fd.onStx_answer cfg k fd b
  | cmd => exact Fd.onCmd_answer cfg k fd b
  | crcLo => exact Fd.onCrcLo_answer cfg fd b
  | etx => exact Fd.onEtx_answer cfg fd b
  | done => exact .inr (.inr ⟨0x06, by decide, by decide, Fd.decodeError_response ..⟩)
  | hunt | len | data | crcHi | discard => exact .inl rfl

/-- Settles O26: with index room the decoder answers one of its answers, and the gate refuses under FAULT. -/
theorem frByteCompletesAndChangesFdOnly : Obligations.FrByteCompletesAndChangesFdOnly := by
  unfold Obligations.FrByteCompletesAndChangesFdOnly
  refine ⟨encodedWithImm_of_op rfl (fun d => decode_encode (i := .frByte d) rfl) (by decide),
    fun b s => ⟨fun hf hroom => ?_, fun hf => unlessFaulted_of_faulted hf _⟩⟩
  have hindex : s.fd.indexOutside = false := Bool.eq_false_iff.2 (mt Fd.indexOutside_iff.1 hroom)
  exact ⟨_, _, exec_frByte hf hindex rfl, Fd.onByte_answer _ _ _ b⟩

/-! ## The end of a buffer and the reset of the decoder (41_framer_decode.md R80, R81) -/

theorem exec_frEnd_of_stream {s : State} (hf : s.blk.fault = false) (hmode : bufMode s.blk.cfg = false) :
    exec .frEnd s = .next (s.respond .none) :=
  (unlessFaulted_of_running hf _).trans (if_neg (Bool.eq_false_iff.1 hmode))

/-- FR_END records and answers the buffer's outcome, and the decoder is ready for the next one. -/
theorem exec_frEnd_of_buffer {s : State} {out : Fd × Response} (hf : s.blk.fault = false)
    (hmode : bufMode s.blk.cfg = true) (hend : s.fd.bufferEnd = some out) :
    exec .frEnd s = .next
      { s with fd := { out.1 with state := .wakeup, inframe := false }, responses := out.2 :: s.responses } := by
  refine (unlessFaulted_of_running hf _).trans ((if_pos hmode).trans ?_)
  rw [hend]
  rfl

section BufferEnd
variable {fd : Fd}

theorem Fd.bufferEnd_of_no_stx (hst : fd.state = .wakeup ∨ fd.state = .hunt) :
    fd.bufferEnd = some ({ fd.inProgress with errcode := 0x01, frameValid := false }, .err 0x01) := by
  obtain hst | hst := hst <;> simp [Fd.bufferEnd, hst, Fd.openFrame_eq, errResponse, ErrCode.code]

theorem Fd.bufferEnd_of_done (hst : fd.state = .done) :
    fd.bufferEnd = some ({ fd with frameValid := true }, .frameOk) := by
  simp [Fd.bufferEnd, hst]

theorem Fd.bufferEnd_of_discard (hst : fd.state = .discard) : fd.bufferEnd = some (fd, .err fd.errcode) := by
  simp [Fd.bufferEnd, hst]

/-- A frame that has begun and is not complete is cut short. -/
theorem Fd.bufferEnd_of_truncated (hst : fd.state ∈ [.stx, .len, .data, .crcHi, .crcLo, .etx]) :
    fd.bufferEnd = some ({ fd with errcode := 0x07, frameValid := false }, .err 0x07) := by
  unfold Fd.bufferEnd
  cases h : fd.state with
  | stx | len | data | crcHi | crcLo | etx => rfl
  | _ => simp [h] at hst

end BufferEnd

/-- Settles O28: nothing in streaming, and otherwise the outcome by the state that the buffer's last byte led to. -/
theorem frEndReportsTheOutcomeOfTheBuffer : Obligations.FrEndReportsTheOutcomeOfTheBuffer := by
  unfold Obligations.FrEndReportsTheOutcomeOfTheBuffer
  refine ⟨encodedExactly_of_op (by decide) (by decide) (by decide), fun s => ⟨fun hf => unlessFaulted_of_faulted hf _,
    exec_frEnd_of_stream, fun hf hmode => ⟨fun hst => ?noStx, fun hst => ?done, fun hst => ?discard,
      fun hst => ?cut⟩⟩⟩
  case noStx => exact exec_frEnd_of_buffer hf hmode (Fd.bufferEnd_of_no_stx hst)
  case done => exact exec_frEnd_of_buffer hf hmode (Fd.bufferEnd_of_done hst)
  case discard => exact exec_frEnd_of_buffer hf hmode (Fd.bufferEnd_of_discard hst)
  case cut => exact exec_frEnd_of_buffer hf hmode (Fd.bufferEnd_of_truncated hst)

/-- Settles O29: the gate, and the one word of the operation. -/
theorem frResetClearsTheDecoderOnly : Obligations.FrResetClearsTheDecoderOnly := by
  unfold Obligations.FrResetClearsTheDecoderOnly
  exact ⟨encodedExactly_of_op (by decide) (by decide) (by decide),
    fun s => ⟨fun hf => unlessFaulted_of_running hf _, fun hf => unlessFaulted_of_faulted hf _⟩⟩

/-! ## The computed CRC (41_framer_decode.md R82) -/

/-- In CRC_LO the engine has been fed the whole span. -/
theorem Fd.Inv.engFinal_of_crcLo {cfg : Byte} {k : Catalogue} {fd : Fd} (h : fd.Inv cfg k) (hst : fd.state = .crcLo) :
    engFinal fd.eng = crc16 (fd.span fd.len.toNat) := by
  have heng : fd.eng = engFeedAll (fd.span fd.len.toNat) := by simpa only [Fd.CrcTracksSpan, hst] using h.tracks
  rw [heng, engFinal_engFeedAll]

/-- An error on a byte that cannot start a frame leaves the registers of the failed one for the host to read. -/
theorem Fd.afterError_keeps_frame (fd : Fd) (buffer : Bool) (code b : Byte) :
    let failed := fd.afterError buffer code b false
    failed.crcCalc = fd.crcCalc ∧ failed.cmd = fd.cmd ∧ failed.len = fd.len ∧ failed.rxbuf = fd.rxbuf := by
  cases buffer <;> simp [Fd.afterError]

/-- Settles O30: both outcomes of CRC_LO latch what the engine reads as, and the engine has been fed the span. -/
theorem computedCrcIsThatOfTheSpan : Obligations.ComputedCrcIsThatOfTheSpan := by
  unfold Obligations.ComputedCrcIsThatOfTheSpan
  intro b s hs hf hst
  have hcalc : engFinal s.fd.eng = crc16 (s.fd.cmd :: s.fd.len :: s.fd.rxbuf.firstBytes s.fd.len.toNat) :=
    hs.fd.engFinal_of_crcLo hst
  rw [← hcalc]
  by_cases hcheck : verifyOn s.blk.cfg = true ∧ be16 (hi8 s.fd.crcRx) b ≠ engFinal s.fd.eng
  · exact ⟨_, exec_frByte_of_state hf hst (Fd.onByte_mismatch_of_crcLo hst hcheck.1 hcheck.2),
      Fd.afterError_keeps_frame ..⟩
  · rw [not_and_not_right] at hcheck
    exact ⟨_, exec_frByte_of_state hf hst (Fd.onByte_match_of_crcLo hst hcheck), rfl, rfl, rfl, rfl⟩

/-! ## Runs of the decoder that answer NONE to every byte -/

/-- The decoder takes the bytes one after another, each with index room and the answer NONE. -/
inductive Fd.Takes (cfg : Byte) (k : Catalogue) : Fd → List Byte → Fd → Prop
  | nil (fd : Fd) : Fd.Takes cfg k fd [] fd
  | cons {fd next last : Fd} {b : Byte} {bs : List Byte} (hindex : fd.indexOutside = false)
      (hb : fd.onByte cfg k b = (next, .none)) (hrest : Fd.Takes cfg k next bs last) : Fd.Takes cfg k fd (b :: bs) last

theorem execAll_append_of_next {is js : List Instr} {s t : State} (h : execAll is s = .next t) :
    execAll (is ++ js) s = execAll js t := by
  induction is generalizing s with
  | nil =>
    cases h
    rfl
  | cons i is ih =>
    cases hi : exec i s with
    | next s' =>
      rw [execAll_cons_of_next hi] at h
      rw [List.cons_append, execAll_cons_of_next hi, ih h]
    | fault | refused => simp [execAll, hi] at h

/-- FR_BYTE operations whose bytes the decoder takes, from any earlier responses. -/
theorem Fd.Takes.run_from {s : State} {fd last : Fd} {bs : List Byte}
    (h : fd.Takes s.blk.cfg s.catalogue bs last) (hf : s.blk.fault = false) (rs : List Response) :
    execAll (bs.map .frByte) { s with fd := fd, responses := rs }
      = .next { s with fd := last, responses := List.replicate bs.length Response.none ++ rs } := by
  induction h generalizing rs with
  | nil => rfl
  | cons hindex hb _ ih =>
    have hexec := exec_frByte (s := { s with fd := _, responses := rs }) hf hindex hb
    rw [List.map_cons, execAll_cons_of_next hexec, ih]
    simp [List.replicate_succ']

theorem Fd.Takes.run {s : State} {last : Fd} {bs : List Byte} (h : s.fd.Takes s.blk.cfg s.catalogue bs last)
    (hf : s.blk.fault = false) :
    execAll (bs.map .frByte) s
      = .next { s with fd := last, responses := List.replicate bs.length Response.none ++ s.responses } :=
  h.run_from hf s.responses

/-- The byte after those that the decoder takes, in a state that stores nothing in RXBUF. -/
theorem Fd.Takes.run_concat {s : State} {last : Fd} {bs : List Byte} {st : FdState} {b : Byte} {out : Fd × Response}
    (h : s.fd.Takes s.blk.cfg s.catalogue bs last) (hf : s.blk.fault = false) (hst : last.state = st)
    (hb : last.onByte s.blk.cfg s.catalogue b = out) (hne : st ≠ .data := by decide) :
    execAll ((bs ++ [b]).map .frByte) s
      = .next
        { s with
          fd := out.1, responses := out.2 :: (List.replicate bs.length Response.none ++ s.responses) } := by
  rw [List.map_append, execAll_append_of_next (h.run hf), List.map_singleton]
  have hlast := exec_frByte_of_state
    (s := { s with fd := last, responses := List.replicate bs.length Response.none ++ s.responses }) hf hst hb hne
  exact execAll_cons_of_next hlast

section Takes
variable {cfg : Byte} {k : Catalogue} {fd : Fd}

theorem Fd.Takes.append {mid last : Fd} {bs cs : List Byte} (h : fd.Takes cfg k bs mid) (h' : mid.Takes cfg k cs last) :
    fd.Takes cfg k (bs ++ cs) last := by
  induction h with
  | nil => exact h'
  | cons hindex hb _ ih => exact .cons hindex hb (ih h')

theorem Fd.Takes.single {st : FdState} {next : Fd} {b : Byte} (hst : fd.state = st)
    (hb : fd.onByte cfg k b = (next, .none)) (hne : st ≠ .data := by decide) : fd.Takes cfg k [b] next :=
  .cons (Fd.indexOutside_of_state hst hne) hb (.nil next)

/-- Bytes that the decoder ignores. -/
theorem Fd.Takes.ignored {bs : List Byte} (hindex : fd.indexOutside = false)
    (h : ∀ b ∈ bs, fd.onByte cfg k b = (fd, .none)) : fd.Takes cfg k bs fd := by
  induction bs with
  | nil => exact .nil fd
  | cons b bs ih =>
    obtain ⟨hb, hbs⟩ := List.forall_mem_cons.1 h
    exact .cons hindex hb (ih hbs)

/-- DISCARD ignores every byte (41_framer_decode.md R78). -/
theorem Fd.takes_discarded (hst : fd.state = .discard) (bs : List Byte) : fd.Takes cfg k bs fd :=
  .ignored (Fd.indexOutside_of_state hst (by decide)) fun _ _ => Fd.onByte_of_discard hst

/-- HUNT ignores every byte but the markers (41_framer_decode.md R66). -/
theorem Fd.takes_junk {junk : List Byte} (hst : fd.state = .hunt) (hjunk : ∀ x ∈ junk, x ≠ 0xFF ∧ x ≠ 0x02) :
    fd.Takes cfg k junk fd := by
  refine .ignored (Fd.indexOutside_of_state hst (by decide)) fun x hx => ?_
  obtain ⟨hff, h02⟩ := hjunk x hx
  rw [Fd.onByte_of_hunt hst, Fd.hunt_discards (isMarker_eq_false hff h02)]

/-! ### Counting wakeup and STX bytes (41_framer_decode.md R65, R68) -/

theorem satInc8_iterate_toNat (n : Nat) (c : Byte) : (satInc8^[n] c).toNat = min (c.toNat + n) 255 := by
  induction n generalizing c with
  | zero => exact (Nat.min_eq_left (Nat.le_of_lt_succ c.isLt)).symm
  | succ n ih =>
    rw [Function.iterate_succ_apply, ih, satInc8_toNat]
    omega

/-- A count from 0, or from 1, that does not saturate. -/
theorem satInc8_iterate_zero (w : Byte) : satInc8^[w.toNat] 0 = w := by
  apply BitVec.eq_of_toNat_eq
  have hzero : (0 : Byte).toNat = 0 := rfl
  have := w.isLt
  rw [satInc8_iterate_toNat]
  omega

theorem satInc8_iterate_one {t : Byte} {n : Nat} (ht : t.toNat = n + 1) : satInc8^[n] 1 = t := by
  apply BitVec.eq_of_toNat_eq
  have hone : (1 : Byte).toNat = 1 := rfl
  have := t.isLt
  rw [satInc8_iterate_toNat]
  omega

theorem Fd.inProgress_of_inframe (hin : fd.inframe = true) : fd.inProgress = fd := if_pos hin

theorem Fd.inProgress_of_not_inframe (hin : fd.inframe = false) : fd.inProgress = fd.afterSof :=
  if_neg (Bool.eq_false_iff.1 hin)

theorem Fd.inProgress_inframe (fd : Fd) : fd.inProgress.inframe = true := Fd.openFrame_inframe fd

theorem Fd.inProgress_state (fd : Fd) : fd.inProgress.state = fd.state := Fd.openFrame_state fd

/-- Wakeup bytes inside a frame. -/
theorem Fd.takes_wakeups (n : Nat) (hst : fd.state = .wakeup) (hin : fd.inframe = true) :
    fd.Takes cfg k (List.replicate n 0xFF) { fd with wakeCnt := satInc8^[n] fd.wakeCnt } := by
  induction n generalizing fd with
  | zero => exact .nil fd
  | succ n ih =>
    have hb := Fd.onByte_wakeup_of_wakeup (cfg := cfg) (k := k) hst
    rw [Fd.inProgress_of_inframe hin] at hb
    exact .cons (Fd.indexOutside_of_state hst (by decide)) hb (ih hst hin)

/-- Further STX bytes. -/
theorem Fd.takes_stxs (n : Nat) (hst : fd.state = .stx) :
    fd.Takes cfg k (List.replicate n 0x02) { fd with stxCnt := satInc8^[n] fd.stxCnt } := by
  induction n generalizing fd with
  | zero => exact .nil fd
  | succ n ih => exact .cons (Fd.indexOutside_of_state hst (by decide)) (Fd.onByte_stx_of_stx hst) (ih hst)

/-- The first byte in WAKEUP starts the frame and is handled in it (41_framer_decode.md R64, R65). -/
theorem Fd.onByte_inProgress (hst : fd.state = .wakeup) (b : Byte) :
    fd.onByte cfg k b = fd.inProgress.onByte cfg k b := by
  have hopen : fd.inProgress.openFrame = fd.openFrame := Fd.openFrame_of_inframe fd.inProgress_inframe
  simp only [Fd.onByte, fd.inProgress_state, hst, Fd.onWakeup, hopen]

theorem Fd.Takes.of_inProgress {last : Fd} {bs : List Byte} (h : fd.inProgress.Takes cfg k bs last)
    (hst : fd.state = .wakeup) (hne : bs ≠ []) : fd.Takes cfg k bs last := by
  cases h with
  | nil => exact absurd rfl hne
  | cons _ hb hrest =>
    exact .cons (Fd.indexOutside_of_state hst (by decide)) ((Fd.onByte_inProgress hst _).trans hb) hrest

/-- The wakeup bytes of a new frame. -/
theorem Fd.takes_first_wakeups {n : Nat} (hst : fd.state = .wakeup) (hin : fd.inframe = false) (hn : 0 < n) :
    fd.Takes cfg k (List.replicate n 0xFF) { fd.afterSof with wakeCnt := satInc8^[n] 0 } := by
  refine Fd.Takes.of_inProgress ?_ hst (by simpa using hn.ne')
  rw [Fd.inProgress_of_not_inframe hin]
  exact Fd.takes_wakeups n hst rfl

/-- Any number of wakeup bytes leaves the decoder in WAKEUP. -/
theorem Fd.exists_takes_wakeups (n : Nat) (hst : fd.state = .wakeup) :
    ∃ last : Fd, fd.Takes cfg k (List.replicate n 0xFF) last ∧ last.state = .wakeup := by
  induction n generalizing fd with
  | zero => exact ⟨fd, .nil fd, hst⟩
  | succ n ih =>
    obtain ⟨last, hlast, hwakeup⟩ :=
      ih (fd := { fd.inProgress with wakeCnt := satInc8 fd.inProgress.wakeCnt }) (fd.inProgress_state.trans hst)
    exact ⟨last, .cons (Fd.indexOutside_of_state hst (by decide)) (Fd.onByte_wakeup_of_wakeup hst) hlast, hwakeup⟩

/-- The wakeup and STX bytes of a new frame, with at least one STX. -/
theorem Fd.takes_preamble (w : Byte) {t : Byte} (hst : fd.state = .wakeup) (hin : fd.inframe = false) (ht : t ≠ 0) :
    fd.Takes cfg k (List.replicate w.toNat 0xFF ++ List.replicate t.toNat 0x02)
      { fd.afterSof with wakeCnt := w, stxCnt := t, state := .stx } := by
  obtain ⟨n, hn⟩ := Nat.exists_eq_succ_of_ne_zero (BitVec.toNat_ne.1 ht)
  rw [hn, List.replicate_succ]
  refine Fd.Takes.of_inProgress ?_ hst (by simp)
  rw [Fd.inProgress_of_not_inframe hin]
  have hwakeups := Fd.takes_wakeups (cfg := cfg) (k := k) (fd := fd.afterSof) w.toNat hst rfl
  rw [show fd.afterSof.wakeCnt = 0 from rfl, satInc8_iterate_zero] at hwakeups
  have hstxs := Fd.takes_stxs (cfg := cfg) (k := k)
    (fd := { fd.afterSof with wakeCnt := w, stxCnt := 1, state := .stx }) n rfl
  rw [satInc8_iterate_one hn] at hstxs
  exact hwakeups.append
    (.cons (Fd.indexOutside_of_state (st := .wakeup) hst (by decide)) (Fd.onByte_stx_of_wakeup hst) hstxs)

/-! ### The span and the CRC of a frame (41_framer_decode.md R69 to R75) -/

/-- The buffer after the bytes are written from index i on. -/
def Memory.writeAll (m : Memory) (i : Nat) : List Byte → Memory
  | [] => m
  | b :: bs => (m.write i b).writeAll (i + 1) bs

theorem Memory.firstBytes_writeAll {m : Memory} {i : Nat} {bs : List Byte} (hm : m.wf = true)
    (hroom : i + bs.length ≤ bufferBytes) : (m.writeAll i bs).firstBytes (i + bs.length) = m.firstBytes i ++ bs := by
  induction bs generalizing m i with
  | nil => exact (List.append_nil _).symm
  | cons b bs ih =>
    rw [List.length_cons] at hroom ⊢
    have hrest := ih (Memory.wf_write (v := b) hm (show i < bufferBytes by omega)) (show i + 1 + bs.length ≤ _ by omega)
    rw [Memory.firstBytes_write hm, List.append_assoc, List.singleton_append] at hrest
    rwa [Nat.add_comm bs.length, ← Nat.add_assoc]

/-- Written from index 0 on, the bytes are the first ones of the buffer. -/
theorem Memory.firstBytes_writeAll_zero {m : Memory} {bs : List Byte} (hm : m.wf = true)
    (hroom : bs.length ≤ bufferBytes) : (m.writeAll 0 bs).firstBytes bs.length = bs := by
  have h := Memory.firstBytes_writeAll (i := 0) hm (by rwa [Nat.zero_add])
  rwa [Nat.zero_add] at h

/-- The command byte and LEN. -/
theorem Fd.takes_header {c : Byte} (n : Byte) (hst : fd.state = .stx) (hc : Known k c) :
    fd.Takes cfg k [c, n]
      { fd with
        cmd := c, len := n, eng := engFeed (engFeed fd.eng c) n, dataCnt := 0
        state := if n = 0 then .crcHi else .data } :=
  .cons (Fd.indexOutside_of_state hst (by decide))
    ((Fd.onByte_command_of_stx hst hc.1.ne_stx).trans (Fd.onCmd_of_known hc))
    (.single (st := .len) rfl (Fd.onByte_of_len rfl))

/-- The payload bytes that are still to come, none of them in CRC_HI. -/
theorem Fd.takes_payload (payload : List Byte) (hst : fd.state = if fd.dataCnt = fd.len then .crcHi else .data)
    (hlen : fd.dataCnt.toNat + payload.length = fd.len.toNat) :
    fd.Takes cfg k payload
      { fd with
        rxbuf := fd.rxbuf.writeAll fd.dataCnt.toNat payload, eng := payload.foldl engFeed fd.eng, dataCnt := fd.len
        state := .crcHi } := by
  induction payload generalizing fd with
  | nil =>
    have hcnt : fd.dataCnt = fd.len := BitVec.eq_of_toNat_eq hlen
    rw [if_pos hcnt] at hst
    rw [← hst]
    convert Fd.Takes.nil fd using 1
    exact congrArg (fun n : Byte => { fd with dataCnt := n }) hcnt.symm
  | cons b rest ih =>
    rw [List.length_cons] at hlen
    have hroom : fd.dataCnt.toNat < fd.len.toNat := by omega
    have hindex := Fd.dataCnt_lt_of_lt_len hroom
    have hcnt := succ_toNat_of_lt hindex
    rw [if_neg fun h => hroom.ne (congrArg BitVec.toNat h)] at hst
    have hrest := ih (fd := (fd.onData b).1) rfl (show (fd.dataCnt + 1).toNat + _ = fd.len.toNat by omega)
    refine .cons (Fd.indexOutside_of_lt hindex) (Fd.onByte_of_data hst) ?_
    rwa [show (fd.onData b).1.dataCnt.toNat = fd.dataCnt.toNat + 1 from hcnt] at hrest

/-- The CRC bytes, where the CRC is not checked or is the computed one. -/
theorem Fd.takes_crc {crc : Word} (hst : fd.state = .crcHi) (hcrc : verifyOn cfg = true → crc = engFinal fd.eng) :
    fd.Takes cfg k [hi8 crc, lo8 crc] { fd with crcRx := crc, crcCalc := engFinal fd.eng, state := .etx } := by
  have hlo := Fd.onByte_match_of_crcLo (cfg := cfg) (k := k) (fd := (fd.onCrcHi (hi8 crc)).1) (b := lo8 crc) rfl
    (by simpa [Fd.onCrcHi] using hcrc)
  simp only [Fd.onCrcHi, hi8_be16, be16_hi8_lo8] at hlo
  exact .cons (Fd.indexOutside_of_state hst (by decide)) (Fd.onByte_of_crcHi hst) (.single (st := .crcLo) rfl hlo)

end Takes

/-! ### A frame (30_encoding.md R45) -/

/-- The CRC-covered span of a frame: CMD, LEN and the payload. -/
def frameSpan (c : Byte) (payload : List Byte) : List Byte := c :: BitVec.ofNat 8 payload.length :: payload

/-- The bytes of a frame before its CRC. -/
def framePrefix (w t : Byte) (span : List Byte) : List Byte :=
  List.replicate w.toNat 0xFF ++ List.replicate t.toNat 0x02 ++ span

theorem wireFrame_eq (w t : Byte) (span : List Byte) (crc : Word) :
    wireFrame w t span crc = framePrefix w t span ++ [hi8 crc, lo8 crc] ++ [0x03] := by
  simp [wireFrame, framePrefix]

/-- The registers of a decoder that has received a frame up to its CRC. -/
def Fd.atCrcHi (fd : Fd) (w t c : Byte) (payload : List Byte) : Fd :=
  { state := .crcHi, inframe := true, wakeCnt := w, stxCnt := t, cmd := c, len := BitVec.ofNat 8 payload.length
    dataCnt := BitVec.ofNat 8 payload.length, rxbuf := fd.rxbuf.writeAll 0 payload, crcRx := 0, crcCalc := 0
    eng := engFeedAll (frameSpan c payload), frameValid := false, errcode := fd.errcode }

/-- The registers of a decoder that has received a frame with this CRC up to ETX. -/
def Fd.atEtx (fd : Fd) (w t c : Byte) (payload : List Byte) (crc : Word) : Fd :=
  { fd.atCrcHi w t c payload with crcRx := crc, crcCalc := crc16 (frameSpan c payload), state := .etx }

theorem ofNat_toNat_of_le {n : Nat} (hn : n ≤ 255) : (BitVec.ofNat 8 n).toNat = n :=
  Nat.mod_eq_of_lt (show n < 256 by omega)

section Frame
variable {cfg : Byte} {k : Catalogue} {fd : Fd} {w t c : Byte} {payload : List Byte}

theorem Fd.takes_framePrefix (hst : fd.state = .wakeup) (hin : fd.inframe = false) (hc : Known k c)
    (hlen : payload.length ≤ 255) (ht : t ≠ 0) :
    fd.Takes cfg k (framePrefix w t (frameSpan c payload)) (fd.atCrcHi w t c payload) := by
  have hheader := Fd.takes_header (cfg := cfg) (k := k)
    (fd := { fd.afterSof with wakeCnt := w, stxCnt := t, state := .stx })
    (BitVec.ofNat 8 payload.length) rfl hc
  refine (Fd.takes_preamble w hst hin ht).append (hheader.append ?_)
  refine Fd.takes_payload payload (if_congr eq_comm rfl rfl) ?_
  exact (Nat.zero_add _).trans (ofNat_toNat_of_le hlen).symm

/-- A frame up to ETX, with its own CRC or with any other that is not checked. -/
theorem Fd.takes_frame {crc : Word} (hst : fd.state = .wakeup) (hin : fd.inframe = false) (hc : Known k c)
    (hlen : payload.length ≤ 255) (ht : t ≠ 0) (hcrc : verifyOn cfg = true → crc = crc16 (frameSpan c payload)) :
    fd.Takes cfg k (framePrefix w t (frameSpan c payload) ++ [hi8 crc, lo8 crc]) (fd.atEtx w t c payload crc) := by
  have hfinal : engFinal (fd.atCrcHi w t c payload).eng = crc16 (frameSpan c payload) := engFinal_engFeedAll _
  have htrailer := Fd.takes_crc (k := k) (fd := fd.atCrcHi w t c payload) rfl (hfinal ▸ hcrc)
  rw [hfinal] at htrailer
  exact (Fd.takes_framePrefix hst hin hc hlen ht).append htrailer

/-- A hunting decoder takes the bytes of a frame as one that waits for it. -/
theorem Fd.Takes.of_hunt {last : Fd} {b : Byte} {bs : List Byte}
    (h : Fd.Takes cfg k { fd with state := .wakeup, inframe := false } (b :: bs) last) (hst : fd.state = .hunt)
    (hb : isMarker b = true) : fd.Takes cfg k (b :: bs) last := by
  cases h with
  | cons _ hnext hrest =>
    exact .cons (Fd.indexOutside_of_state hst (by decide)) ((Fd.onByte_marker_of_hunt hst hb).trans hnext) hrest

/-- A frame with an STX begins with a marker. -/
theorem framePrefix_eq_cons (span : List Byte) (ht : t ≠ 0) :
    ∃ b bs, framePrefix w t span = b :: bs ∧ isMarker b = true := by
  obtain ⟨n, hn⟩ := Nat.exists_eq_succ_of_ne_zero (BitVec.toNat_ne.1 ht)
  unfold framePrefix
  cases hw : w.toNat with
  | zero => exact ⟨0x02, List.replicate n 0x02 ++ span, by simp [hn, List.replicate_succ], rfl⟩
  | succ m => exact ⟨0xFF, _, by rw [List.replicate_succ, List.cons_append, List.cons_append], rfl⟩

end Frame

/-- Settles O31: the counts are iterated saturating increments, begun at 0 by SOF or where the STX count stands. -/
theorem wakeupAndStxCountsSaturate : Obligations.WakeupAndStxCountsSaturate := by
  unfold Obligations.WakeupAndStxCountsSaturate
  refine ⟨fun n s hf hfresh hn => ?wakeups, fun n s hf hst => ?stxs⟩
  case wakeups =>
    obtain ⟨hst, hin, -⟩ := hfresh
    have hrun := (Fd.takes_first_wakeups hst hin hn).run hf
    rw [List.map_replicate, List.length_replicate] at hrun
    refine ⟨_, hrun, hst, ?_, rfl⟩
    exact (satInc8_iterate_toNat n 0).trans (congrArg (min · 255) (Nat.zero_add n))
  case stxs =>
    have hrun := (Fd.takes_stxs n hst).run hf
    rw [List.map_replicate, List.length_replicate] at hrun
    exact ⟨_, hrun, hst, satInc8_iterate_toNat n _, rfl⟩

/-- Settles O32: HUNT ignores the bytes before the frame, takes its first marker as WAKEUP does, and the last byte of the
frame is answered FRAME_OK. -/
theorem streamResynchronisesOnTheNextFrame : Obligations.StreamResynchronisesOnTheNextFrame := by
  unfold Obligations.StreamResynchronisesOnTheNextFrame
  intro junk payload c w t s hf hmode hst hwf hjunk hc hlen ht span
  have hframe : s.fd.Takes s.blk.cfg s.catalogue (framePrefix w t span ++ [hi8 (crc16 span), lo8 (crc16 span)])
      (s.fd.atEtx w t c payload (crc16 span)) := by
    have hwaiting := Fd.takes_frame (cfg := s.blk.cfg) (fd := { s.fd with state := .wakeup, inframe := false }) (w := w)
      rfl rfl hc hlen ht fun _ => rfl
    obtain ⟨b, bs, hcons, hb⟩ := framePrefix_eq_cons (w := w) span ht
    rw [show frameSpan c payload = span from rfl, hcons, List.cons_append] at hwaiting
    rw [hcons, List.cons_append]
    exact hwaiting.of_hunt hst hb
  have hrun := ((Fd.takes_junk hst hjunk).append hframe).run_concat hf (st := .etx) rfl
    (Fd.onByte_etx_of_stream rfl hmode)
  have hcount : (junk ++ (framePrefix w t span ++ [hi8 (crc16 span), lo8 (crc16 span)])).length
      = junk.length + w.toNat + t.toNat + payload.length + 4 := by
    simp [framePrefix, span]
    omega
  rw [wireFrame_eq, ← List.append_assoc]
  exact ⟨_, hrun, congrArg (fun n => _ :: (List.replicate n _ ++ _)) hcount, rfl, rfl, ofNat_toNat_of_le hlen,
    Memory.firstBytes_writeAll_zero hwf hlen, rfl, rfl, rfl, rfl, rfl⟩

/-! ### Damaged frames (41_framer_decode.md R84) -/

/-- The decoder error action in whole-buffer mode. -/
theorem Fd.afterError_of_buffer (fd : Fd) (code b : Byte) (rx : Bool) :
    fd.afterError true code b rx = { fd with errcode := code, frameValid := false, state := .discard } := if_pos rfl

/-- The answers to a buffer with an error, newest first: NONE to the bytes before it, the error, NONE to the bytes after
it, and the error again at the buffer's end. -/
def rejectedAnswers (code : Byte) (before after : Nat) : List Response :=
  .err code :: (List.replicate after .none ++ .err code :: List.replicate before .none)

theorem rejectedAnswers_length (code : Byte) (before after : Nat) :
    (rejectedAnswers code before after).length = before + after + 2 := by
  simp [rejectedAnswers]
  omega

theorem eq_of_mem_rejectedAnswers {code : Byte} {before after : Nat} {r : Response}
    (h : r ∈ rejectedAnswers code before after) : r = .none ∨ r = .err code := by
  simp only [rejectedAnswers, List.mem_cons, List.mem_append, List.mem_replicate] at h
  tauto

/-- A buffer with an error: the bytes after it are ignored, and its end reports the error again. -/
theorem Fd.Takes.decodeOps_of_error {s : State} {last failed : Fd} {bs : List Byte} {st : FdState} {b code : Byte}
    {rx : Bool} (h : s.fd.Takes s.blk.cfg s.catalogue bs last) (hf : s.blk.fault = false)
    (hmode : bufMode s.blk.cfg = true) (hst : last.state = st)
    (hb : last.onByte s.blk.cfg s.catalogue b = (failed.afterError (s.blk.cfg.getLsbD 1) code b rx, .err code))
    (rest : List Byte) (hne : st ≠ .data := by decide) :
    ∃ u, execAll (decodeOps (bs ++ b :: rest)) s = .next u
      ∧ u.responses = rejectedAnswers code bs.length rest.length ++ s.responses := by
  rw [show s.blk.cfg.getLsbD 1 = true from hmode, Fd.afterError_of_buffer] at hb
  have hrest := (Fd.takes_discarded (cfg := s.blk.cfg) (k := s.catalogue)
    (fd := { failed with errcode := code, frameValid := false, state := .discard }) rfl rest).run_from hf
    (.err code :: (List.replicate bs.length Response.none ++ s.responses))
  rw [decodeOps, ← List.singleton_append, ← List.append_assoc bs, List.map_append, List.append_assoc,
    execAll_append_of_next (h.run_concat hf hst hb hne), execAll_append_of_next hrest]
  refine ⟨_, execAll_cons_of_next (exec_frEnd_of_buffer
    (s := { s with fd := { failed with errcode := code, frameValid := false, state := .discard }, responses := _ }) hf
    hmode (Fd.bufferEnd_of_discard rfl)), ?_⟩
  simp [rejectedAnswers]

/-- Without STX bytes a frame is wakeup bytes, the span and the trailer. -/
theorem wireFrame_zero_stx (w c : Byte) (payload : List Byte) (crc : Word) :
    wireFrame w 0 (frameSpan c payload) crc
      = List.replicate w.toNat 0xFF ++ c :: BitVec.ofNat 8 payload.length :: (payload ++ [hi8 crc, lo8 crc, 0x03]) := by
  simp [wireFrame, frameSpan]

/-- A command byte 0xFF without STX before it is one more wakeup byte. -/
theorem replicate_append_wakeup (n : Nat) (bs : List Byte) :
    List.replicate n (0xFF : Byte) ++ 0xFF :: bs = List.replicate (n + 1) 0xFF ++ bs := by
  rw [List.replicate_succ', List.append_assoc, List.singleton_append]

theorem ofNat_ne_of_ne {n : Nat} {b : Byte} (hn : n ≤ 255) (h : n ≠ b.toNat) : BitVec.ofNat 8 n ≠ b := by
  rintro rfl
  exact h (ofNat_toNat_of_le hn).symm

section Damaged
variable {s : State} {w t c : Byte} {payload : List Byte}

/-- Another byte in place of ETX. -/
theorem decodeOps_of_bad_etx {x : Byte} (hf : s.blk.fault = false) (hmode : bufMode s.blk.cfg = true)
    (hfresh : s.fd.Fresh) (hc : Known s.catalogue c) (hlen : payload.length ≤ 255) (ht : t ≠ 0) (hx : x ≠ 0x03) :
    ∃ u, execAll (decodeOps
        ((wireFrame w t (frameSpan c payload) (crc16 (frameSpan c payload))).dropLast ++ [x])) s = .next u
      ∧ u.responses.head? = some (.err 0x05) := by
  obtain ⟨hst, hin, -⟩ := hfresh
  have hframe := Fd.takes_frame (cfg := s.blk.cfg) (w := w) hst hin hc hlen ht fun _ => rfl
  obtain ⟨u, hu, hresponses⟩ := hframe.decodeOps_of_error hf hmode (st := .etx) rfl (Fd.onByte_other_of_etx rfl hx) []
  rw [wireFrame_eq, List.dropLast_concat]
  exact ⟨u, hu, by rw [hresponses]; rfl⟩

/-- Another CRC, under VERIFY: E_CRC is the only error reported. -/
theorem decodeOps_of_bad_crc {crc : Word} (hf : s.blk.fault = false) (hverify : verifyOn s.blk.cfg = true)
    (hmode : bufMode s.blk.cfg = true) (hfresh : s.fd.Fresh) (hc : Known s.catalogue c) (hlen : payload.length ≤ 255)
    (ht : t ≠ 0) (hcrc : crc ≠ crc16 (frameSpan c payload)) :
    ∃ u, execAll (decodeOps (wireFrame w t (frameSpan c payload) crc)) s = .next u
      ∧ u.responses.head? = some (.err 0x04)
      ∧ ∀ r ∈ u.responses.take (w.toNat + t.toNat + payload.length + 6), r = .none ∨ r = .err 0x04 := by
  obtain ⟨hst, hin, -⟩ := hfresh
  have hprefix := Fd.takes_framePrefix (cfg := s.blk.cfg) (fd := s.fd) (w := w) hst hin hc hlen ht
  have hhi := hprefix.append (.single (st := .crcHi) rfl (Fd.onByte_of_crcHi (b := hi8 crc) rfl))
  have hne : be16 (hi8 (be16 (hi8 crc) (lo8 0))) (lo8 crc) ≠ engFinal (engFeedAll (frameSpan c payload)) := by
    rwa [hi8_be16, be16_hi8_lo8, engFinal_engFeedAll]
  obtain ⟨u, hu, hresponses⟩ := hhi.decodeOps_of_error hf hmode (st := .crcLo) rfl
    (Fd.onByte_mismatch_of_crcLo (b := lo8 crc) rfl hverify hne) [0x03]
  have hbytes : wireFrame w t (frameSpan c payload) crc
      = framePrefix w t (frameSpan c payload) ++ [hi8 crc] ++ lo8 crc :: [0x03] := by simp [wireFrame_eq]
  refine ⟨u, hbytes ▸ hu, by rw [hresponses]; rfl, fun r hr => ?_⟩
  have hcount : w.toNat + t.toNat + payload.length + 6
      = (rejectedAnswers 0x04 (framePrefix w t (frameSpan c payload) ++ [hi8 crc]).length
          [(0x03 : Byte)].length).length := by
    simp [rejectedAnswers_length, framePrefix, frameSpan]
    omega
  rw [hresponses, hcount, List.take_left' rfl] at hr
  exact eq_of_mem_rejectedAnswers hr

/-- No STX, and the byte in its place is no marker: E_STX_MISSING. -/
theorem decodeOps_of_no_stx {n : Nat} {b : Byte} (hf : s.blk.fault = false) (hmode : bufMode s.blk.cfg = true)
    (hst : s.fd.state = .wakeup) (hff : b ≠ 0xFF) (h02 : b ≠ 0x02) (rest : List Byte) :
    ∃ u, execAll (decodeOps (List.replicate n 0xFF ++ b :: rest)) s = .next u
      ∧ u.responses.head? = some (.err 0x01) := by
  obtain ⟨last, hlast, hwakeup⟩ := Fd.exists_takes_wakeups (cfg := s.blk.cfg) (k := s.catalogue) n hst
  obtain ⟨u, hu, hresponses⟩ :=
    hlast.decodeOps_of_error hf hmode hwakeup (Fd.onByte_other_of_wakeup hwakeup hff h02) rest
  exact ⟨u, hu, by rw [hresponses]; rfl⟩

end Damaged

/-- Settles O33: each damage is an error of one byte, after which the buffer is discarded; without STX that byte is the
command byte, or LEN where the command byte counts as a wakeup byte. -/
theorem damagedFramesAreRejected : Obligations.DamagedFramesAreRejected := by
  unfold Obligations.DamagedFramesAreRejected
  refine ⟨rfl, ?_⟩
  intro payload c w t s hf hverify hmode hfresh hc hlen ht span
  refine ⟨fun x hx => ?etx, fun crc hcrc => ?crc, fun hbyte => ?noStx, fun hff htwo => ?lenIsStx,
    fun hff hmax => ?lenIsWakeup⟩
  case etx => exact decodeOps_of_bad_etx hf hmode hfresh hc hlen ht hx
  case crc => exact decodeOps_of_bad_crc hf hverify hmode hfresh hc hlen ht hcrc
  case noStx =>
    rw [show span = frameSpan c payload from rfl, wireFrame_zero_stx]
    by_cases hff : c = 0xFF
    · obtain ⟨h02, hFF⟩ := hbyte.resolve_left (not_not.2 hff)
      rw [hff, replicate_append_wakeup]
      exact decodeOps_of_no_stx hf hmode hfresh.1 (ofNat_ne_of_ne hlen hFF) (ofNat_ne_of_ne hlen h02) _
    · exact decodeOps_of_no_stx hf hmode hfresh.1 hff hc.1.ne_stx _
  case lenIsStx =>
    have hbytes : (wireFrame w 0 span (crc16 span)).take (w.toNat + 2) = List.replicate (w.toNat + 1) 0xFF ++ [0x02] := by
      rw [show span = frameSpan c payload from rfl, wireFrame_zero_stx, hff, htwo, replicate_append_wakeup]
      simp [List.take_append]
    obtain ⟨last, hlast, hwakeup⟩ :=
      Fd.exists_takes_wakeups (cfg := s.blk.cfg) (k := s.catalogue) (w.toNat + 1) hfresh.1
    rw [hbytes]
    exact ⟨_, hlast.run_concat hf hwakeup (Fd.onByte_stx_of_wakeup hwakeup), rfl, rfl⟩
  case lenIsWakeup =>
    have hbytes : (wireFrame w 0 span (crc16 span)).take (w.toNat + 2) = List.replicate (w.toNat + 2) 0xFF := by
      rw [show span = frameSpan c payload from rfl, wireFrame_zero_stx, hff, hmax, replicate_append_wakeup]
      simp [List.take_append, List.replicate_succ']
    obtain ⟨hst, hin, -⟩ := hfresh
    rw [hbytes]
    refine ⟨_, (Fd.takes_first_wakeups hst hin (Nat.succ_pos _)).run hf, hst, ?_⟩
    exact (satInc8_iterate_toNat _ 0).trans (congrArg (min · 255) (Nat.zero_add _))

/-! ### The round trip (41_framer_decode.md R83) -/

/-- The encoder's inputs for a frame, with its CRC supplied or not. -/
def frameInputs (c : Byte) (payload : List Byte) (w t : Byte) (tx : Memory) (crc : Option Word) : En :=
  { cmd := c, len := BitVec.ofNat 8 payload.length, txbuf := tx, wake := w, stx := t, crcX := crc.getD 0
    crcV := crc.isSome }

theorem frameInputs_span {c w t : Byte} {payload : List Byte} {tx : Memory} {crc : Option Word}
    (hlen : payload.length ≤ 255) (htx : tx.firstBytes payload.length = payload) :
    (frameInputs c payload w t tx crc).span = frameSpan c payload := by
  simp only [En.span, frameInputs, frameSpan, ofNat_toNat_of_le hlen, htx]

/-- On any running machine with the encoder inputs en, the operations leave the inputs en' and change nothing else. -/
def En.Loads (en : En) (is : List Instr) (en' : En) : Prop :=
  ∀ s : State, s.blk.fault = false → s.en = en → ∃ rs, execAll is s = .next { s with en := en', responses := rs }

theorem En.Loads.nil (en : En) : en.Loads [] en := by
  rintro s - rfl
  exact ⟨s.responses, rfl⟩

theorem En.Loads.single {en en' : En} {i : Instr}
    (h : ∀ s : State, s.blk.fault = false → s.en = en → exec i s = finishEn s en') : en.Loads [i] en' :=
  fun s hf hen => ⟨_, execAll_cons_of_next (h s hf hen)⟩

theorem En.Loads.append {en mid last : En} {is js : List Instr} (h : en.Loads is mid) (h' : mid.Loads js last) :
    en.Loads (is ++ js) last := by
  intro s hf hen
  obtain ⟨rs, his⟩ := h s hf hen
  rw [execAll_append_of_next his]
  exact h' { s with en := mid, responses := rs } hf rfl

/-- The WAKE line of ENCODE, which is left out for the default count. -/
theorem En.loads_wakeLine {en : En} (w : Byte) (hen : en.wake = 1) :
    en.Loads (if w = 1 then [] else [.encSetWake w]) { en with wake := w } := by
  split
  · next h =>
    rw [h, ← hen]
    exact .nil en
  · exact .single fun _ hf hs => hs ▸ unlessFaulted_of_running hf _

/-- The STX line of ENCODE, which is left out for the default count. -/
theorem En.loads_stxLine {en : En} {t : Byte} (hen : en.stx = 1) (ht : t ≠ 0) :
    en.Loads (if t = 1 then [] else [.encSetStx t]) { en with stx := t } := by
  split
  · next h =>
    rw [h, ← hen]
    exact .nil en
  · exact .single fun _ hf hs => hs ▸ (unlessFaulted_of_running hf _).trans (if_neg ht)

/-- The lines of ENCODE before the payload. -/
theorem En.loads_header (en : En) (c w : Byte) {t : Byte} (ht : t ≠ 0) :
    en.Loads (.encClr :: .encSetCmd c ::
        ((if w = 1 then [] else [.encSetWake w]) ++ (if t = 1 then [] else [.encSetStx t])))
      { En.reset with cmd := c, wake := w, stx := t } := by
  have hclr : en.Loads [.encClr] .reset := .single fun _ hf _ => unlessFaulted_of_running hf _
  have hcmd : En.reset.Loads [.encSetCmd c] { En.reset with cmd := c } :=
    .single fun _ hf hs => hs ▸ unlessFaulted_of_running hf _
  exact hclr.append (hcmd.append ((En.loads_wakeLine w rfl).append (En.loads_stxLine rfl ht)))

/-- The lines of ENCODE_CRC that supply the CRC. -/
theorem En.loads_crcLines (c w t : Byte) (payload : List Byte) (tx : Memory) (crc : Word) :
    (frameInputs c payload w t tx none).Loads [.encSetCrcHi (hi8 crc), .encSetCrcLo (lo8 crc)]
      (frameInputs c payload w t tx (some crc)) := by
  have hhi (en : En) (d : Byte) : en.Loads [.encSetCrcHi d] { en with crcX := be16 d (lo8 en.crcX), crcV := true } :=
    .single fun _ hf hs => hs ▸ unlessFaulted_of_running hf _
  have hlo (en : En) (d : Byte) : en.Loads [.encSetCrcLo d] { en with crcX := be16 (hi8 en.crcX) d, crcV := true } :=
    .single fun _ hf hs => hs ▸ unlessFaulted_of_running hf _
  have h := (hhi (frameInputs c payload w t tx none) (hi8 crc)).append (hlo _ (lo8 crc))
  simp only [hi8_be16, be16_hi8_lo8] at h
  exact h

/-- The lines of ENCODE before ENC_GO load the inputs of the frame. -/
theorem execAll_encodeInputs (c w : Byte) {t : Byte} {payload : List Byte} (s : State) (hf : s.blk.fault = false)
    (hlen : payload.length ≤ 255) (ht : t ≠ 0) : ∃ tx rs,
    execAll (encodeInputs c payload w t) s
      = .next { s with en := frameInputs c payload w t tx none, responses := rs }
    ∧ tx.firstBytes payload.length = payload := by
  obtain ⟨rs, hheader⟩ := s.en.loads_header c w ht s hf rfl
  obtain ⟨tx, hpush, hbytes, -⟩ := execAll_encPush payload
    { s with en := { En.reset with cmd := c, wake := w, stx := t }, responses := rs } hf rfl
    ((Nat.zero_add _).trans_le hlen)
  have hrun := (execAll_append_of_next hheader).trans hpush
  simp only [En.reset, zero_add] at hrun
  exact ⟨tx, _, hrun, (congrArg tx.firstBytes (Nat.zero_add _)).symm.trans hbytes⟩

/-- ENC_GO on a known command, with no CRC supplied or the computed one (42_encoder.md R89). -/
theorem En.goResponse_of_known {cfg : Byte} {k : Catalogue} {en : En} (hk : Known k en.cmd)
    (hcrc : en.crcV = true → en.crcX = crc16 en.span) :
    en.goResponse cfg k = .bytes (wireFrame en.wake en.stx en.span (crc16 en.span)) := by
  have hext : isExtended en.cmd = true := (isExtended_iff _).2 hk.1
  have hknown : knownCmd k en.cmd = true := (knownCmd_iff k _).2 hk
  cases hv : en.crcV with
  | false => simp [En.goResponse, hext, hknown, hv]
  | true => simp [En.goResponse, hext, hknown, hv, hcrc hv]

/-- ENC_GO on the inputs of a frame. -/
theorem exec_encGo_frameInputs {s : State} {c w t : Byte} {payload : List Byte} {tx : Memory} {crc : Option Word}
    (hf : s.blk.fault = false) (hen : s.en = frameInputs c payload w t tx crc) (hk : Known s.catalogue c)
    (hlen : payload.length ≤ 255) (htx : tx.firstBytes payload.length = payload)
    (hcrc : ∀ x ∈ crc, x = crc16 (frameSpan c payload)) :
    exec .encGo s = .next (s.respond (.bytes (wireFrame w t (frameSpan c payload) (crc16 (frameSpan c payload))))) := by
  have hspan := frameInputs_span (c := c) (w := w) (t := t) (crc := crc) hlen htx
  have hsupplied : (frameInputs c payload w t tx crc).crcV = true →
      (frameInputs c payload w t tx crc).crcX = crc16 (frameInputs c payload w t tx crc).span := by
    rw [hspan]
    cases crc with
    | none => exact nofun
    | some x => exact fun _ => hcrc x rfl
  rw [exec_encGo_of_running hf, hen, En.goResponse_of_known hk hsupplied, hspan]
  rfl

section RoundTrip
variable {c w t : Byte} {payload : List Byte} {s : State}

/-- ENCODE answers the frame last. -/
theorem execAll_encodeOps (hf : s.blk.fault = false) (hk : Known s.catalogue c) (hlen : payload.length ≤ 255)
    (ht : t ≠ 0) : ∃ u, execAll (encodeOps c payload w t) s = .next u
      ∧ u.responses.head? = some (.bytes (wireFrame w t (frameSpan c payload) (crc16 (frameSpan c payload)))) := by
  obtain ⟨tx, rs, hinputs, htx⟩ := execAll_encodeInputs c w s hf hlen ht
  rw [encodeOps, execAll_append_of_next hinputs, execAll_cons_of_next
    (exec_encGo_frameInputs (s := { s with en := frameInputs c payload w t tx none, responses := rs }) hf rfl hk hlen htx
      nofun)]
  exact ⟨_, rfl, rfl⟩

/-- ENCODE_CRC answers the same frame where the CRC supplied is the computed one. -/
theorem execAll_encodeCrcOps (hf : s.blk.fault = false) (hk : Known s.catalogue c) (hlen : payload.length ≤ 255)
    (ht : t ≠ 0) : ∃ v, execAll (encodeCrcOps c payload w t (crc16 (frameSpan c payload))) s = .next v
      ∧ v.responses.head? = some (.bytes (wireFrame w t (frameSpan c payload) (crc16 (frameSpan c payload)))) := by
  obtain ⟨tx, rs, hinputs, htx⟩ := execAll_encodeInputs c w s hf hlen ht
  obtain ⟨rs', hsupplied⟩ := En.loads_crcLines c w t payload tx (crc16 (frameSpan c payload))
    { s with en := frameInputs c payload w t tx none, responses := rs } hf rfl
  have hgo := exec_encGo_frameInputs
    (s := { s with en := frameInputs c payload w t tx (some (crc16 (frameSpan c payload))), responses := rs' }) hf rfl hk
    hlen htx fun x hx => (Option.some.inj hx).symm
  rw [encodeCrcOps, execAll_append_of_next hinputs]
  exact ⟨_, (execAll_append_of_next (js := [.encGo]) hsupplied).trans (execAll_cons_of_next hgo), rfl⟩

/-- Decoding a frame with the computed CRC as a whole buffer. -/
theorem execAll_decodeOps_wireFrame (hf : s.blk.fault = false) (hmode : bufMode s.blk.cfg = true) (hfresh : s.fd.Fresh)
    (hk : Known s.catalogue c) (hlen : payload.length ≤ 255) (ht : t ≠ 0) :
    ∃ u, execAll (decodeOps (wireFrame w t (frameSpan c payload) (crc16 (frameSpan c payload)))) s = .next u
      ∧ u.responses.head? = some .frameOk
      ∧ u.fd = { s.fd.atEtx w t c payload (crc16 (frameSpan c payload)) with
          frameValid := true, inframe := false, state := .wakeup } := by
  obtain ⟨hst, hin, -⟩ := hfresh
  have hframe := (Fd.takes_frame (cfg := s.blk.cfg) (w := w) hst hin hk hlen ht fun _ => rfl).run_concat hf
    (st := .etx) rfl (Fd.onByte_etx_of_buffer rfl hmode)
  rw [wireFrame_eq, decodeOps, execAll_append_of_next hframe]
  exact ⟨_, execAll_cons_of_next (exec_frEnd_of_buffer
    (s := { s with fd := { s.fd.atEtx w t c payload _ with state := .done }, responses := _ }) hf hmode
    (Fd.bufferEnd_of_done rfl)), rfl, rfl⟩

end RoundTrip

/-- Settles O40: the two encodings answer one frame, and its decoding leaves the registers of that frame. -/
theorem frameRoundTrip : Obligations.FrameRoundTrip := by
  unfold Obligations.FrameRoundTrip
  intro payload c w t s s' hf hf' hk hcatalogue hmode hfresh hlen ht crc
  obtain ⟨u, hu, hframe⟩ := execAll_encodeOps (w := w) hf hk hlen ht
  obtain ⟨v, hv, hframe'⟩ := execAll_encodeCrcOps (w := w) hf hk hlen ht
  obtain ⟨u', hu', hok, hfd⟩ := execAll_decodeOps_wireFrame (w := w) hf' hmode hfresh (hcatalogue ▸ hk) hlen ht
  obtain ⟨-, -, hwf⟩ := hfresh
  refine ⟨_, u, v, u', hu, hframe, hv, hframe', hu', hok, ?_⟩
  rw [hfd]
  exact ⟨rfl, rfl, ofNat_toNat_of_le hlen, Memory.firstBytes_writeAll_zero hwf hlen, rfl, rfl, rfl, rfl⟩

end Sys2Proof.Machine

/-! The rules of 42_encoder.md: the words of ENC_SET and its inputs, the room in TXBUF, and the checks of ENC_GO. -/

namespace Sys2Proof.Machine

open Sys2Proof

/-! ## The encoder's inputs (42_encoder.md R86 to R88) -/

/-- Settles O34: the gate, and the one word of the operation. -/
theorem encClrRestoresTheDefaults : Obligations.EncClrRestoresTheDefaults := by
  unfold Obligations.EncClrRestoresTheDefaults
  exact ⟨encodedExactly_of_op (by decide) (by decide) (by decide),
    fun s => ⟨fun hf => unlessFaulted_of_running hf _, fun hf => unlessFaulted_of_faulted hf _⟩⟩

/-- The byte of a word stands in the bits below OP and SEL. -/
theorem makeWord_or_imm (op sel : BitVec 4) (d : Byte) :
    makeWord op sel 0 ||| d.setWidth 16 = makeWord op sel d := by
  simp [makeWord]

/-- The words of ENC_SET with a selector that takes a byte (42_encoder.md R87). -/
theorem decode_encSetWords (d : Byte) :
    decode (0xC000 ||| d.setWidth 16) = .legal (.encSetCmd d)
    ∧ decode (0xC100 ||| d.setWidth 16) = .legal (.encSetWake d)
    ∧ decode (0xC200 ||| d.setWidth 16) = .legal (.encSetStx d)
    ∧ decode (0xC300 ||| d.setWidth 16) = .legal (.encSetCrcHi d)
    ∧ decode (0xC400 ||| d.setWidth 16) = .legal (.encSetCrcLo d) := by
  have hword {i : Instr} (sel : BitVec 4) (hi : encode i = makeWord 0xC sel d) (hwf : i.wellFormed = true) :
      decode (makeWord 0xC sel 0 ||| d.setWidth 16) = .legal i := by
    rw [makeWord_or_imm, ← hi, decode_encode hwf]
  exact ⟨hword 0 rfl rfl, hword 1 rfl rfl, hword 2 rfl rfl, hword 3 rfl rfl, hword 4 rfl rfl⟩

/-- An ENC_SET word with an undefined selector, or with a byte where the selector takes none, is in the fifth case of
30_encoding.md R48. -/
theorem illegalByTable_of_encSet {v : OpWord} (hop : v >>> 12 = 0xC)
    (h : 6 ≤ ((v >>> 8) &&& 0xF).toNat ∨ ((v >>> 8) &&& 0xF = 5 ∧ v &&& 0xFF ≠ 0)) : IllegalByTable v := by
  refine .inr (.inr (.inr (.inr ⟨congrArg BitVec.toNat hop, h.imp id fun ⟨hsel, himm⟩ => ?_⟩)))
  exact ⟨congrArg BitVec.toNat hsel, fun hz => himm (BitVec.eq_of_toNat_eq hz)⟩

theorem exec_encSetStx_zero {s : State} (hf : s.blk.fault = false) :
    exec (.encSetStx 0) s = .next (s.afterProgError 0x0A) :=
  (unlessFaulted_of_running hf _).trans (progError_eq .encStx0 s)

theorem exec_encSetStx_of_ne_zero {d : Byte} {s : State} (hf : s.blk.fault = false) (hd : d ≠ 0) :
    exec (.encSetStx d) s = .next (State.respond { s with en := { s.en with stx := d } } .none) :=
  (unlessFaulted_of_running hf _).trans (if_neg hd)

/-- Settles O35: a programmer error exactly for STX 0; each half of EN.crc_x is set beside the other. -/
theorem encSetSetsTheSelectedInput : Obligations.EncSetSetsTheSelectedInput := by
  unfold Obligations.EncSetSetsTheSelectedInput
  refine ⟨decode_encSetWords, by decide, fun v s hop h => raisesIllegalOp_of_table (illegalByTable_of_encSet hop h) s,
    fun d s => ⟨fun hf => ?running, ?faulted⟩⟩
  case running =>
    refine ⟨unlessFaulted_of_running hf _, unlessFaulted_of_running hf _, ?zero, exec_encSetStx_of_ne_zero hf,
      ⟨be16 d (lo8 s.en.crcX), unlessFaulted_of_running hf _, ?hi⟩,
      ⟨be16 (hi8 s.en.crcX) d, unlessFaulted_of_running hf _, ?lo⟩, unlessFaulted_of_running hf _⟩
    case zero =>
      rintro rfl
      exact exec_encSetStx_zero hf
    case hi => rw [be16_toNat, lo8_toNat]
    case lo => rw [be16_toNat, hi8_toNat]
  case faulted =>
    have hrefused {o : StepResult} (hf : s.blk.fault = true) := unlessFaulted_of_faulted hf o
    exact ⟨hrefused, hrefused, hrefused, hrefused, hrefused, hrefused⟩

theorem exec_encPush_of_full {d : Byte} {s : State} (hf : s.blk.fault = false) (hfull : s.en.len = 0xFF#8) :
    exec (.encPush d) s = .next (s.afterProgError 0x09) :=
  (unlessFaulted_of_running hf _).trans ((if_pos hfull).trans (progError_eq .encOverflow s))

/-- Settles O36: with room, the byte is written at EN.len, which then names a byte of TXBUF. -/
theorem encPushAppendsOneByte : Obligations.EncPushAppendsOneByte := by
  unfold Obligations.EncPushAppendsOneByte
  refine ⟨encodedWithImm_of_op rfl (fun d => decode_encode (i := .encPush d) rfl) (by decide),
    fun d s => ⟨exec_encPush_of_full, fun hf hroom hwf => ?room, fun hf => unlessFaulted_of_faulted hf _⟩⟩
  case room =>
    have hne : s.en.len.toNat ≠ 255 := BitVec.toNat_ne.1 hroom
    have hindex : s.en.txIndex < bufferBytes := Nat.lt_of_le_of_ne (Nat.le_of_lt_succ s.en.len.isLt) hne
    exact ⟨s.en.txbuf.write s.en.txIndex d, exec_encPush_of_room hf hroom,
      fun j => (Memory.read_write hwf).trans (if_congr eq_comm rfl rfl), Memory.wf_write hwf hindex⟩

/-! ## The checks of ENC_GO (42_encoder.md R89) -/

section GoResponse
variable {cfg : Byte} {k : Catalogue} {en : En}

theorem En.goResponse_of_not_extended (h : ¬ Extended en.cmd) : en.goResponse cfg k = .err 0x02 :=
  if_pos (by simpa [← isExtended_iff] using h)

theorem En.goResponse_of_not_known (hext : Extended en.cmd) (h : ¬ Known k en.cmd) : en.goResponse cfg k = .err 0x03 :=
  (if_neg (by simp [(isExtended_iff _).2 hext])).trans (if_pos (by simpa [← knownCmd_iff] using h))

/-- On a known command only the check of the CRC is left. -/
theorem En.goResponse_eq_of_known (hk : Known k en.cmd) :
    en.goResponse cfg k =
      if en.crcV = true ∧ encVerifyOn cfg = true ∧ en.crcX ≠ crc16 en.span then .err 0x08
      else .bytes (wireFrame en.wake en.stx en.span (if en.crcV then en.crcX else crc16 en.span)) := by
  simp [En.goResponse, (isExtended_iff _).2 hk.1, (knownCmd_iff _ _).2 hk, errResponse, ErrCode.code, and_assoc]

end GoResponse

/-- A wire frame with its markers and the two halves of its CRC written out (30_encoding.md R45). -/
theorem wireFrame_eq_bytes (wake stx : Byte) (span : List Byte) (crc : Word) :
    wireFrame wake stx span crc = List.replicate wake.toNat 0xFF#8 ++ List.replicate stx.toNat 0x02#8 ++ span
      ++ [(crc >>> 8).setWidth 8, crc.setWidth 8, 0x03] := by
  rw [BitVec.setWidth_ushiftRight_eq_extractLsb, BitVec.setWidth_eq_extractLsb' (by decide)]
  rfl

theorem exec_encGo_of_response {s : State} {r : Response} (hf : s.blk.fault = false)
    (hr : s.en.goResponse s.blk.cfg s.catalogue = r) : exec .encGo s = .next (s.respond r) := by
  rw [exec_encGo_of_running hf, hr]

/-- Settles O37: the three checks in their order, then the frame. -/
theorem encGoAnswersTheFrameOrItsFirstError : Obligations.EncGoAnswersTheFrameOrItsFirstError := by
  unfold Obligations.EncGoAnswersTheFrameOrItsFirstError
  refine ⟨encodedExactly_of_op (by decide) (by decide) (by decide),
    fun s => ⟨fun hf => unlessFaulted_of_faulted hf _, fun hf => ?running⟩⟩
  case running =>
    intro span mismatch crc
    refine ⟨fun hext => ?legacy, fun hext hk => ?unknown, fun hk hcrc => ?mismatch, fun hk hcrc => ?frame⟩
    case legacy => exact exec_encGo_of_response hf (En.goResponse_of_not_extended hext)
    case unknown => exact exec_encGo_of_response hf (En.goResponse_of_not_known hext hk)
    case mismatch => exact exec_encGo_of_response hf ((En.goResponse_eq_of_known hk).trans (if_pos hcrc))
    case frame =>
      rw [← wireFrame_eq_bytes]
      exact exec_encGo_of_response hf ((En.goResponse_eq_of_known hk).trans (if_neg hcrc))

end Sys2Proof.Machine

/-! The rules of 43_control.md: NOP and RST, the write of CFG, the two read-back operations, and the classification of
command bytes. -/

namespace Sys2Proof.Machine

open Sys2Proof

/-! ## NOP and RST (43_control.md R93, R94) -/

/-- Settles O2: NOP is behind no gate, and it has one word. -/
theorem nopAnswersNoneAndChangesNothing : Obligations.NopAnswersNoneAndChangesNothing := by
  unfold Obligations.NopAnswersNoneAndChangesNothing
  exact ⟨encodedExactly_of_op (by decide) (by decide) (by decide), fun _ => rfl⟩

/-- STATUS reads 0x00 after the reset action (70_reset_and_hazards.md R120). -/
theorem State.resetAction_status (s : State) : s.resetAction.status = 0x00 := by
  change State.reset.status = 0x00
  decide

/-- Settles O3: RST is behind no gate, and the state it leaves is the reset action's. -/
theorem rstPutsEveryElementAtItsResetValue : Obligations.RstPutsEveryElementAtItsResetValue := by
  unfold Obligations.RstPutsEveryElementAtItsResetValue
  exact ⟨encodedExactly_of_op (by decide) (by decide) (by decide),
    fun s => ⟨s.resetAction.respond .none, rfl, rfl, rfl, rfl, rfl, rfl, s.resetAction_status⟩⟩

/-! ## CFG_WR (43_control.md R95) -/

/-- BUFMODE is among the three bits that a write of CFG keeps. -/
theorem bufMode_cfgWritten (d : Byte) : bufMode (cfgWritten d) = d.getLsbD 1 := by
  simp [bufMode, cfgWritten]

/-- Settles O4: the gate, and BUFMODE before and after the write. -/
theorem cfgWrWritesThreeBitsAndResetsTheDecoderOnAModeChange :
    Obligations.CfgWrWritesThreeBitsAndResetsTheDecoderOnAModeChange := by
  unfold Obligations.CfgWrWritesThreeBitsAndResetsTheDecoderOnAModeChange
  refine ⟨encodedWithImm_of_op rfl (fun d => decode_encode (i := .cfgWr d) rfl) (by decide),
    fun d s => ⟨fun hf => ?_, fun hf => unlessFaulted_of_faulted hf _⟩⟩
  refine (unlessFaulted_of_running hf _).trans ?_
  rw [bufMode_cfgWritten, ← hf]
  rfl

/-! ## RD_REG and RD_DATA (43_control.md R96, R97) -/

/-- An RD_REG word with a byte is in the third case of 30_encoding.md R48. -/
theorem illegalByTable_of_rdReg {v : OpWord} (hop : v >>> 12 = 0x9) (himm : v &&& 0xFF ≠ 0) : IllegalByTable v :=
  .inr (.inr (.inl ⟨congrArg BitVec.toNat hop, fun hz => himm (BitVec.eq_of_toNat_eq hz)⟩))

/-- An RD_DATA word with a selector, or with the index that names no byte, is in the fourth case of 30_encoding.md R48. -/
theorem illegalByTable_of_rdData {v : OpWord} (hop : v >>> 12 = 0xA)
    (h : (v >>> 8) &&& 0xF ≠ 0 ∨ v &&& 0xFF = 0xFF) : IllegalByTable v :=
  .inr (.inr (.inr (.inl ⟨congrArg BitVec.toNat hop,
    h.imp (fun hsel hz => hsel (BitVec.eq_of_toNat_eq hz)) (congrArg BitVec.toNat)⟩)))

/-- STATUS[7:4] are the four flags (10_state.md R19). -/
theorem State.status_flags (s : State) :
    s.status.getLsbD 4 = s.fd.frameValid ∧ s.status.getLsbD 5 = s.blk.fault ∧ s.status.getLsbD 6 = s.en.crcV
      ∧ s.status.getLsbD 7 = s.fd.inframe := by
  simp [State.status, flagByte]

/-- Settles O5: the registers are those of `State.reg`. -/
theorem rdRegAnswersTheSelectedRegister : Obligations.RdRegAnswersTheSelectedRegister := by
  unfold Obligations.RdRegAnswersTheSelectedRegister
  refine ⟨fun _ s hop himm => raisesIllegalOp_of_table (illegalByTable_of_rdReg hop himm) s, by decide,
    fun s => ⟨s.reg, fun _ => rfl, ?state, ?registers⟩⟩
  case state =>
    refine s.status_state.trans ?_
    cases s.fd.state <;> rfl
  case registers =>
    obtain ⟨hvalid, hfault, hcrcV, hinframe⟩ := s.status_flags
    exact ⟨hvalid, hfault, hcrcV, hinframe, rfl, rfl, rfl, rfl, hi8_toNat _, lo8_toNat _, hi8_toNat _, lo8_toNat _,
      rfl, rfl, rfl, rfl, rfl, rfl, rfl⟩

/-- Settles O6: an index other than 0xFF has a word, and it is all that RD_DATA asks of its operand. -/
theorem rdDataAnswersTheIndexedByte : Obligations.RdDataAnswersTheIndexedByte := by
  unfold Obligations.RdDataAnswersTheIndexedByte
  refine ⟨fun i hi => ?word, fun _ s hop h => raisesIllegalOp_of_table (illegalByTable_of_rdData hop h) s,
    fun i s hi => if_neg hi⟩
  case word =>
    have hword : encode (.rdData i) = 0xA000 ||| i.setWidth 16 := makeWord_eq_or 0xA i
    rw [← hword, decode_encode (rdData_wellFormed_iff.2 hi)]

/-! ## CLASSIFY (43_control.md R91, R92) -/

/-- The extended bytes are the upper half of the byte values without 0xC4. -/
theorem length_filter_isExtended : ((List.range 256).filter (fun n => isExtended (BitVec.ofNat 8 n))).length = 127 := by
  decide +kernel

/-- The class of a command byte: is_extended in bit 0, P_KNOWN_CMD in bit 1 (43_control.md R92). -/
def commandClass (k : Catalogue) (c : Byte) : Byte := flagByte (isExtended c) ||| flagByte (knownCmd k c) <<< 1

theorem exec_classify_of_running {s : State} (hf : s.blk.fault = false) (c : Byte) :
    exec (.classify c) s = .next (s.respond (.byte (commandClass s.catalogue c))) :=
  unlessFaulted_of_running hf _

section CommandClass
variable {k : Catalogue} {c : Byte}

/-- A legacy byte is not known either. -/
theorem commandClass_of_not_extended (h : ¬ Extended c) : commandClass k c = 0x00 := by
  have hext : isExtended c = false := Bool.eq_false_iff.2 (mt (isExtended_iff c).1 h)
  have hknown : knownCmd k c = false := Bool.eq_false_iff.2 fun hk => h ((knownCmd_iff k c).1 hk).1
  rw [commandClass, hext, hknown]
  rfl

theorem commandClass_of_not_known (hext : Extended c) (h : ¬ Known k c) : commandClass k c = 0x01 := by
  have hknown : knownCmd k c = false := Bool.eq_false_iff.2 (mt (knownCmd_iff k c).1 h)
  rw [commandClass, (isExtended_iff c).2 hext, hknown]
  rfl

/-- A known byte is extended. -/
theorem commandClass_of_known (h : Known k c) : commandClass k c = 0x03 := by
  rw [commandClass, (isExtended_iff c).2 h.1, (knownCmd_iff k c).2 h]
  rfl

end CommandClass

/-- Settles O7: the gate, and the three classes. -/
theorem classifyAnswersTheClassOfACommandByte : Obligations.ClassifyAnswersTheClassOfACommandByte := by
  unfold Obligations.ClassifyAnswersTheClassOfACommandByte
  exact ⟨encodedWithImm_of_op rfl (fun c => decode_encode (i := .classify c) rfl) (by decide), length_filter_isExtended,
    isExtended_iff,
    fun c s => ⟨fun hf => ⟨commandClass s.catalogue c, exec_classify_of_running hf c, commandClass_of_not_extended,
      commandClass_of_not_known, commandClass_of_known⟩, fun hf => unlessFaulted_of_faulted hf _⟩⟩

end Sys2Proof.Machine

/-! The rules of 60_exceptions.md: the decoder error action of FR_BYTE, the FAULT gate, and the order of checks. -/

namespace Sys2Proof

/-! ## The operations allowed under FAULT (60_exceptions.md R106, R108) -/

/-- The gate of R108 is by OP: the operations it lets through are those of OP 0x0, 0x1, 0x9 and 0xA. -/
theorem allowedUnderFault_iff_op (i : Instr) :
    i.allowedUnderFault = true ↔ (encode i >>> 12).toNat ∈ [0x0, 0x1, 0x9, 0xA] := by
  rw [opField_toNat]
  cases i with
  | nop | rst | rdReg | rdData => exact iff_of_true rfl (by rw [encode, opField_makeWord]; decide)
  | _ => exact iff_of_false Bool.false_ne_true (by rw [encode, opField_makeWord]; decide)

end Sys2Proof

namespace Sys2Proof.Machine

open Sys2Proof

/-- An operation behind the FAULT gate is refused there, whatever it would have done. -/
theorem exec_of_faulted {i : Instr} {s : State} (hi : i.allowedUnderFault = false) (hf : s.blk.fault = true) :
    exec i s = .next (s.respond (.err 0x0C)) := by
  cases i with
  | nop | rst | rdReg | rdData => cases hi
  | _ => exact unlessFaulted_of_faulted hf _

/-- Settles O46: the four operations stand behind no gate, and the others are refused by it. -/
theorem onlyFourOperationsExecuteUnderFault : Obligations.OnlyFourOperationsExecuteUnderFault := by
  unfold Obligations.OnlyFourOperationsExecuteUnderFault
  intro i s hwf hf
  cases i with
  | nop | rdReg => rfl
  | rst => exact ⟨s.resetAction.respond .none, rfl, rfl, rfl⟩
  | rdData k => exact if_neg (rdData_wellFormed_iff.1 hwf)
  | _ => exact exec_of_faulted rfl hf

/-- A word that is in none of the five cases carries an operation, and performing it is performing the operation. -/
theorem exists_perform_eq_exec {w : OpWord} (h : ¬ IllegalByTable w) :
    ∃ i, encode i = w ∧ ∀ s, perform w s = exec i s := by
  cases hw : decode w with
  | legal i => exact ⟨i, encode_of_decode hw, perform_of_legal hw⟩
  | illegal why => exact absurd (table_of_illegal hw) h

/-- Settles O45: an illegal word is a programmer error before the gate; a legal one is its operation, which the gate
refuses or lets through by the word's OP. -/
theorem checksAreMadeInOrder : Obligations.ChecksAreMadeInOrder := by
  unfold Obligations.ChecksAreMadeInOrder
  refine fun w s => ⟨fun h => raisesIllegalOp_of_table h s, fun h hf hop => ?gated, fun h _ => ?performed⟩
  case gated =>
    obtain ⟨i, rfl, hperform⟩ := exists_perform_eq_exec h
    rw [hperform]
    exact exec_of_faulted (Bool.eq_false_iff.2 (mt (allowedUnderFault_iff_op i).1 hop)) hf
  case performed =>
    obtain ⟨i, hi, hperform⟩ := exists_perform_eq_exec h
    exact ⟨i, hi, hperform s⟩

/-! ## The decoder error action (60_exceptions.md R103) -/

/-- The errors whose byte may start the next frame, the rx of R103: E_CMD_LEGACY, E_CMD_UNKNOWN and E_ETX. -/
def mayRestart (code : Byte) : Bool := code == 0x02 || code == 0x03 || code == 0x05

theorem mayRestart_iff {code : Byte} : mayRestart code = true ↔ code.toNat ∈ [2, 3, 5] := by
  simp [mayRestart, BitVec.toNat_eq, or_assoc]

section AfterError
variable {fd : Fd} {buffer rx : Bool} {code b : Byte}

theorem Fd.afterError_errcode : (fd.afterError buffer code b rx).errcode = code := by
  unfold Fd.afterError
  split_ifs <;> rfl

theorem Fd.afterError_frameValid : (fd.afterError buffer code b rx).frameValid = false := by
  unfold Fd.afterError
  split_ifs <;> rfl

/-- In streaming, a byte that starts no frame leaves the decoder hunting. -/
theorem Fd.afterError_of_hunt (h : rx = false ∨ (b ≠ 0xFF ∧ b ≠ 0x02)) :
    fd.afterError false code b rx = { fd with errcode := code, frameValid := false, state := .hunt, inframe := false } := by
  have hff : ¬ (rx = true ∧ b = 0xFF) := by grind
  have h02 : ¬ (rx = true ∧ b = 0x02) := by grind
  rw [Fd.afterError, if_neg Bool.false_ne_true, if_neg hff, if_neg h02]

end AfterError

/-- The byte b took the decoder error action with this code, in registers whose FD.inframe is the given one. -/
def Fd.TookError (cfg b code : Byte) (inframe : Bool) (out : Fd × Response) : Prop :=
  ∃ raised : Fd, raised.inframe = inframe
    ∧ out = (raised.afterError (cfg.getLsbD 1) code b (mayRestart code), .err code)

section ErrorAnswer
variable {cfg b code : Byte} {k : Catalogue} {inframe : Bool} {fd : Fd} {out : Fd × Response}

/-- An outcome is the error action where it is that action with some code, which is then the code answered. -/
theorem Fd.TookError.of_eq {c : Byte} {raised : Fd} (h : out.2 = .err code)
    (hout : out = (raised.afterError (cfg.getLsbD 1) c b (mayRestart c), .err c)) (hin : raised.inframe = inframe) :
    Fd.TookError cfg b code inframe out := by
  subst hout
  obtain rfl := Response.err.inj h
  exact ⟨raised, hin, rfl⟩

/-- An outcome that answers NONE or FRAME_OK answers no error. -/
theorem Fd.TookError.of_noError {next : Fd} {r : Response} (h : out.2 = .err code) (hout : out = (next, r))
    (hr : ∀ c, r ≠ .err c) : Fd.TookError cfg b code inframe out :=
  absurd ((congrArg Prod.snd hout).symm.trans h) (hr code)

theorem Fd.onByte_wakeup_error (h : (fd.onByte cfg k b).2 = .err code) (hst : fd.state = .wakeup) :
    Fd.TookError cfg b code true (fd.onByte cfg k b) := by
  by_cases hff : b = 0xFF
  · subst hff
    exact .of_noError h (Fd.onByte_wakeup_of_wakeup hst) nofun
  · by_cases h02 : b = 0x02
    · subst h02
      exact .of_noError h (Fd.onByte_stx_of_wakeup hst) nofun
    · exact .of_eq h (Fd.onByte_other_of_wakeup hst hff h02) fd.inProgress_inframe

theorem Fd.onCmd_error (h : (fd.onCmd cfg k b).2 = .err code) : Fd.TookError cfg b code fd.inframe (fd.onCmd cfg k b) := by
  by_cases hext : Extended b
  · by_cases hk : Known k b
    · exact .of_noError h (Fd.onCmd_of_known hk) nofun
    · exact .of_eq h (Fd.onCmd_of_not_known hext hk) rfl
  · exact .of_eq h (Fd.onCmd_of_not_extended hext) rfl

/-- In state STX the command byte is handled in the same operation, in the same frame. -/
theorem Fd.onByte_stx_error (h : (fd.onByte cfg k b).2 = .err code) (hst : fd.state = .stx) :
    Fd.TookError cfg b code fd.inframe (fd.onByte cfg k b) := by
  by_cases hb : b = 0x02
  · subst hb
    exact .of_noError h (Fd.onByte_stx_of_stx hst) nofun
  · rw [Fd.onByte_command_of_stx hst hb] at h ⊢
    exact Fd.onCmd_error h

theorem Fd.onByte_crcLo_error (h : (fd.onByte cfg k b).2 = .err code) (hst : fd.state = .crcLo) :
    Fd.TookError cfg b code fd.inframe (fd.onByte cfg k b) := by
  by_cases hcheck : verifyOn cfg = true ∧ be16 (hi8 fd.crcRx) b ≠ engFinal fd.eng
  · exact .of_eq h (Fd.onByte_mismatch_of_crcLo hst hcheck.1 hcheck.2) rfl
  · exact .of_noError h (Fd.onByte_match_of_crcLo hst (not_and_not_right.1 hcheck)) nofun

theorem Fd.onByte_etx_error (h : (fd.onByte cfg k b).2 = .err code) (hst : fd.state = .etx) :
    Fd.TookError cfg b code fd.inframe (fd.onByte cfg k b) := by
  by_cases hb : b = 0x03
  · subst hb
    cases hmode : bufMode cfg with
    | false => exact .of_noError h (Fd.onByte_etx_of_stream hst hmode) nofun
    | true => exact .of_noError h (Fd.onByte_etx_of_buffer hst hmode) nofun
  · exact .of_eq h (Fd.onByte_other_of_etx hst hb) rfl

/-- Every error answered to a byte took the decoder error action, in a frame that was in progress or, in WAKEUP, that SOF
has started. -/
theorem Fd.onByte_error (h : (fd.onByte cfg k b).2 = .err code) :
    Fd.TookError cfg b code (fd.inframe || fd.state == .wakeup) (fd.onByte cfg k b) := by
  by_cases hst : fd.state = .wakeup
  · rw [hst, beq_self_eq_true, Bool.or_true]
    exact Fd.onByte_wakeup_error h hst
  · rw [beq_eq_false_iff_ne.2 hst, Bool.or_false]
    cases hstate : fd.state with
    | wakeup => exact absurd hstate hst
    | stx => exact Fd.onByte_stx_error h hstate
    | cmd =>
      have hcmd : fd.onByte cfg k b = fd.onCmd cfg k b := by simp [Fd.onByte, hstate]
      rw [hcmd] at h ⊢
      exact Fd.onCmd_error h
    | len => exact .of_noError h (Fd.onByte_of_len hstate) nofun
    | data => exact .of_noError h (Fd.onByte_of_data hstate) nofun
    | crcHi => exact .of_noError h (Fd.onByte_of_crcHi hstate) nofun
    | crcLo => exact Fd.onByte_crcLo_error h hstate
    | etx => exact Fd.onByte_etx_error h hstate
    | done => exact .of_eq h (Fd.onByte_of_done hstate) rfl
    | hunt => exact .of_noError h (Fd.onByte_of_hunt hstate) nofun
    | discard => exact .of_noError h (Fd.onByte_of_discard hstate) nofun

/-- The codes a byte can be answered with (60_exceptions.md R101). -/
theorem Fd.onByte_error_code (h : (fd.onByte cfg k b).2 = .err code) : code.toNat ∈ [1, 2, 3, 4, 5, 6] := by
  have hanswer := fd.onByte_answer cfg k b
  rw [h] at hanswer
  obtain hnone | hok | ⟨e, hmin, hmax, he⟩ := hanswer
  · cases hnone
  · cases hok
  · obtain rfl := Response.err.inj he
    simp only [List.mem_cons, List.not_mem_nil, or_false]
    omega

end ErrorAnswer

/-- Where FR_BYTE completes without FAULT, it is what the decoder does with the byte. -/
theorem eq_of_exec_frByte {b : Byte} {s t : State} (hf : s.blk.fault = false) (h : exec (.frByte b) s = .next t) :
    t = State.respond { s with fd := (s.fd.onByte s.blk.cfg s.catalogue b).1 }
      (s.fd.onByte s.blk.cfg s.catalogue b).2 := by
  cases exec_effect h with
  | refused _ hfault => exact absurd hfault (Bool.eq_false_iff.1 hf)
  | read hread => cases hread
  | encoder _ hw => cases hw
  | frByte => rfl

/-- Settles O27: the answered error took the decoder error action, whose branches are the mode, and in streaming whether
the byte starts the next frame. -/
theorem everyFrByteErrorTakesTheDecoderErrorAction : Obligations.EveryFrByteErrorTakesTheDecoderErrorAction := by
  unfold Obligations.EveryFrByteErrorTakesTheDecoderErrorAction
  intro b s t code hf h hcode
  obtain rfl := eq_of_exec_frByte hf h
  have hanswer : (s.fd.onByte s.blk.cfg s.catalogue b).2 = .err code := (List.cons.inj hcode).1
  obtain ⟨raised, hin, hout⟩ := Fd.onByte_error hanswer
  simp only [State.respond_fd, hout]
  refine ⟨Fd.afterError_errcode, Fd.afterError_frameValid, Fd.onByte_error_code hanswer, fun hmode => ?buffer,
    fun hmode => ?stream⟩
  case buffer =>
    rw [hmode, Fd.afterError_of_buffer]
    exact ⟨rfl, hin⟩
  case stream =>
    rw [hmode]
    refine ⟨fun hc hb => ?wakeup, fun hc hb => ?stx, fun hnone => ?hunt⟩
    case wakeup | stx =>
      rw [hb, mayRestart_iff.2 hc]
      exact ⟨rfl, rfl, rfl, rfl⟩
    case hunt =>
      rw [Fd.afterError_of_hunt (hnone.imp_left fun hc => Bool.eq_false_iff.2 (mt mayRestart_iff.1 hc))]
      exact ⟨rfl, rfl⟩

end Sys2Proof.Machine

/-! The rules of 70_reset_and_hazards.md: the state after reset, how long a received frame's registers last, the points at
which the settings are read, and that operations on different units do not interfere. -/

namespace Sys2Proof.Machine

open Sys2Proof

/-! ## Reset (70_reset_and_hazards.md R120) -/

/-- Settles O1: each element is read off the reset state, and the two reads answer in it. -/
theorem resetLeavesTheListedValues : Obligations.ResetLeavesTheListedValues := by
  unfold Obligations.ResetLeavesTheListedValues
  exact ⟨rfl, rfl, rfl, rfl, rfl, rfl, rfl, rfl, rfl, rfl, rfl, rfl, rfl, Memory.read_nil, rfl, rfl, rfl, rfl, rfl, rfl,
    rfl, rfl, rfl, Memory.read_nil, rfl, rfl, rfl, rfl, rfl, rfl⟩

/-- Settles O58: the four units after reset meet their invariants. -/
theorem invariantHoldsAfterReset : Obligations.InvariantHoldsAfterReset :=
  ⟨Blk.reset_inv, engine_clear_inv, Fd.reset_inv, En.reset_inv⟩

/-! ## The window of a valid frame (70_reset_and_hazards.md R123) -/

section ValidFrame
variable {cfg : Byte} {k : Catalogue} {fd : Fd}

/-- A byte in WAKEUP outside a frame opens the next one, and no byte makes it valid at once. -/
theorem Fd.onByte_frameValid_of_idle (hst : fd.state = .wakeup) (hin : fd.inframe = false) (b : Byte) :
    (fd.onByte cfg k b).1.frameValid = false := by
  have hopened : fd.inProgress.frameValid = false := by rw [Fd.inProgress_of_not_inframe hin]; rfl
  by_cases hff : b = 0xFF
  · rw [hff, Fd.onByte_wakeup_of_wakeup hst]
    exact hopened
  · by_cases h02 : b = 0x02
    · rw [h02, Fd.onByte_stx_of_wakeup hst]
      exact hopened
    · rw [Fd.onByte_other_of_wakeup hst hff h02]
      exact Fd.afterError_frameValid

/-- A buffer that ends where no byte of it has arrived holds no valid frame. -/
theorem Fd.bufferEnd_frameValid_of_wakeup {fd' : Fd} {r : Response} (hst : fd.state = .wakeup)
    (hend : fd.bufferEnd = some (fd', r)) : fd'.frameValid = false := by
  rw [Fd.bufferEnd_of_no_stx (.inl hst)] at hend
  cases hend
  rfl

end ValidFrame

/-- Settles O55: a valid frame stands in WAKEUP outside a frame, so a byte or a buffer's end finds no frame in progress;
the resets clear FRAME_VALID, and no other effect writes FD. -/
theorem frameRegistersLastUntilTheNextFrame : Obligations.FrameRegistersLastUntilTheNextFrame := by
  unfold Obligations.FrameRegistersLastUntilTheNextFrame
  intro i s t hinv hf hv _ h
  obtain ⟨hst, hin, -⟩ := hinv.fd.valid hv
  cases exec_effect h with
  | refused _ hfault => exact absurd hfault (Bool.eq_false_iff.1 hf)
  | read hread =>
    cases i with
    | nop | rdReg | rdData | classify | crcRead | encGo => rfl
    | _ => cases hread
  | badIndex | zeroStx | overflow | crcClr | crcByte => rfl
  | encoder _ hw => cases hw <;> rfl
  | reset | frReset => rfl
  | cfgWr d =>
    simp only [State.respond_fd, bufMode_cfgWritten]
    by_cases hmode : s.blk.cfg.getLsbD 1 = d.getLsbD 1
    · exact (if_pos hmode).mpr (if_pos hmode)
    · exact (if_neg hmode).mpr (congrArg Fd.frameValid (if_neg hmode))
  | frByte d => exact Fd.onByte_frameValid_of_idle hst hin d
  | streamEnd _ hmode => exact (if_neg (Bool.eq_false_iff.1 hmode)).mpr rfl
  | bufferEnd _ hmode hend =>
    have hended := Fd.bufferEnd_frameValid_of_wakeup hst hend
    exact (if_pos hmode).mpr hended

/-! ## The sampling points of the settings (70_reset_and_hazards.md R124) -/

/-- The state with another CFG. -/
def State.withCfg (s : State) (cfg : Byte) : State := { s with blk := { s.blk with cfg := cfg } }

/-- BUFMODE does not matter to an operation with this answer: it is the same in both CFGs, or no error is answered. -/
def ModeUnread (cfg cfg' : Byte) (r : Response) : Prop := bufMode cfg' = bufMode cfg ∨ ∀ code, r ≠ .err code

section Sampling
variable {cfg cfg' b : Byte} {k : Catalogue} {fd : Fd}

/-- The decoder error action reads BUFMODE and no other setting (60_exceptions.md R103). -/
theorem Fd.decodeError_eq_of_cfg {e : ErrCode} {rx : Bool} (h : ModeUnread cfg cfg' (fd.decodeError cfg e b rx).2) :
    fd.decodeError cfg' e b rx = fd.decodeError cfg e b rx := by
  obtain hmode | hnone := h
  · simp only [Fd.decodeError, hmode]
  · exact absurd (Fd.decodeError_response ..) (hnone e.code)

theorem Fd.onWakeup_eq_of_cfg (h : ModeUnread cfg cfg' (fd.onWakeup cfg b).2) :
    fd.onWakeup cfg' b = fd.onWakeup cfg b := by
  unfold Fd.onWakeup at h ⊢
  cases hmarker : fd.openFrame.takeMarker b with
  | some taken => rfl
  | none =>
    rw [hmarker] at h
    exact Fd.decodeError_eq_of_cfg h

theorem Fd.onCmd_eq_of_cfg (h : ModeUnread cfg cfg' (fd.onCmd cfg k b).2) : fd.onCmd cfg' k b = fd.onCmd cfg k b := by
  unfold Fd.onCmd at h ⊢
  split_ifs at h ⊢
  · exact Fd.decodeError_eq_of_cfg h
  · exact Fd.decodeError_eq_of_cfg h
  · rfl

theorem Fd.onStx_eq_of_cfg (h : ModeUnread cfg cfg' (fd.onStx cfg k b).2) : fd.onStx cfg' k b = fd.onStx cfg k b := by
  unfold Fd.onStx at h ⊢
  split_ifs at h ⊢
  · rfl
  · exact Fd.onCmd_eq_of_cfg h

/-- VERIFY is read at the CRC low byte. -/
theorem Fd.onCrcLo_eq_of_cfg (hverify : verifyOn cfg' = verifyOn cfg) (h : ModeUnread cfg cfg' (fd.onCrcLo cfg b).2) :
    fd.onCrcLo cfg' b = fd.onCrcLo cfg b := by
  dsimp only [Fd.onCrcLo] at h ⊢
  rw [hverify]
  split_ifs at h ⊢
  · exact Fd.decodeError_eq_of_cfg h
  · rfl

/-- BUFMODE is read at ETX, with an error and without. -/
theorem Fd.onEtx_eq_of_cfg (hmode : bufMode cfg' = bufMode cfg) : fd.onEtx cfg' b = fd.onEtx cfg b := by
  simp only [Fd.onEtx, hmode, Fd.decodeError_eq_of_cfg (.inl hmode)]

/-- A byte reads VERIFY at the CRC low byte only, and BUFMODE at ETX and at each error only. -/
theorem Fd.onByte_eq_of_cfg (hverify : fd.state = .crcLo → verifyOn cfg' = verifyOn cfg)
    (hetx : fd.state = .etx → bufMode cfg' = bufMode cfg) (h : ModeUnread cfg cfg' (fd.onByte cfg k b).2) :
    fd.onByte cfg' k b = fd.onByte cfg k b := by
  unfold Fd.onByte at h ⊢
  revert h
  cases hst : fd.state with
  | wakeup => exact Fd.onWakeup_eq_of_cfg
  | stx => exact Fd.onStx_eq_of_cfg
  | cmd => exact Fd.onCmd_eq_of_cfg
  | crcLo => exact Fd.onCrcLo_eq_of_cfg (hverify hst)
  | etx => exact fun _ => Fd.onEtx_eq_of_cfg (hetx hst)
  | done => exact Fd.decodeError_eq_of_cfg
  | len | data | crcHi | hunt | discard => exact fun _ => rfl

/-- ENC_GO's answer reads ENC_VERIFY and no other setting. -/
theorem En.goResponse_eq_of_cfg (en : En) (hverify : encVerifyOn cfg' = encVerifyOn cfg) :
    en.goResponse cfg' k = en.goResponse cfg k := by
  simp only [En.goResponse, hverify]

end Sampling

/-- FR_BYTE does with another CFG what it does with the present one, where the decoder does. -/
theorem exec_frByte_withCfg {b cfg : Byte} {s t : State} (hf : s.blk.fault = false) (h : exec (.frByte b) s = .next t)
    (hbyte : s.fd.onByte cfg s.catalogue b = s.fd.onByte s.blk.cfg s.catalogue b) :
    exec (.frByte b) (s.withCfg cfg) = .next { t with blk := (s.withCfg cfg).blk } := by
  cases exec_effect h with
  | refused _ hfault => exact absurd hfault (Bool.eq_false_iff.1 hf)
  | read hread => cases hread
  | encoder _ hw => cases hw
  | frByte _ _ hindex => exact exec_frByte (s := s.withCfg cfg) hf hindex hbyte

theorem exec_frEnd_withCfg {cfg : Byte} {s t : State} (hf : s.blk.fault = false) (h : exec .frEnd s = .next t)
    (hmode : bufMode cfg = bufMode s.blk.cfg) :
    exec .frEnd (s.withCfg cfg) = .next { t with blk := (s.withCfg cfg).blk } := by
  cases exec_effect h with
  | refused _ hfault => exact absurd hfault (Bool.eq_false_iff.1 hf)
  | read hread => cases hread
  | encoder _ hw => cases hw
  | streamEnd _ hstream => exact exec_frEnd_of_stream (s := s.withCfg cfg) hf (hmode.trans hstream)
  | bufferEnd _ hbuffer hend => exact exec_frEnd_of_buffer (s := s.withCfg cfg) hf (hmode.trans hbuffer) hend

theorem exec_encGo_withCfg {cfg : Byte} {s t : State} (hf : s.blk.fault = false) (h : exec .encGo s = .next t)
    (hverify : encVerifyOn cfg = encVerifyOn s.blk.cfg) :
    exec .encGo (s.withCfg cfg) = .next { t with blk := (s.withCfg cfg).blk } := by
  rw [exec_encGo_of_running hf] at h
  cases h
  refine (exec_encGo_of_running (s := s.withCfg cfg) hf).trans ?_
  rw [← s.en.goResponse_eq_of_cfg hverify]
  rfl

/-- Settles O56: FR_BYTE with BUFMODE the same, FR_BYTE away from ETX without an error, FR_END and ENC_GO. -/
theorem settingsAreReadAtTheirSamplingPoints : Obligations.SettingsAreReadAtTheirSamplingPoints := by
  unfold Obligations.SettingsAreReadAtTheirSamplingPoints
  refine fun s cfg hf => ⟨fun b t h hmode hverify => ?sameMode, fun b t h hetx hnone hverify => ?noError,
    fun t h hmode => exec_frEnd_withCfg hf h hmode, fun t h hverify => exec_encGo_withCfg hf h hverify⟩
  case sameMode =>
    exact exec_frByte_withCfg hf h (Fd.onByte_eq_of_cfg (hverify.neg_resolve_left ·) (fun _ => hmode) (.inl hmode))
  case noError =>
    have hread : ModeUnread s.blk.cfg cfg (s.fd.onByte s.blk.cfg s.catalogue b).2 := .inr fun code hcode =>
      hnone code (by rw [eq_of_exec_frByte hf h, State.respond_responses, hcode])
    exact exec_frByte_withCfg hf h (Fd.onByte_eq_of_cfg (hverify.neg_resolve_left ·) (absurd · hetx) hread)

/-! ## Operations on different units (70_reset_and_hazards.md R128) -/

/-- Where o completes, o' completes too, with the same unit, the same BLK and the same answer. -/
def Alike {α : Type} (unit : State → α) (o o' : StepResult) : Prop :=
  ∀ t, o = .next t → ∃ t', o' = .next t' ∧ unit t' = unit t ∧ t'.blk = t.blk ∧ t'.responses.head? = t.responses.head?

section Alike
variable {α : Type} {unit : State → α} {s s' : State} (hblk : s'.blk = s.blk)

/-- Two answers are alike where the states they are given in are. -/
theorem Alike.answer {u u' : State} {r r' : Response} (hunit : unit (u'.respond r') = unit (u.respond r))
    (hblk : u'.blk = u.blk) (hr : r' = r) : Alike unit (answer u r) (answer u' r') := by
  intro t h
  obtain rfl := answer_next_iff.1 h
  exact ⟨_, rfl, hunit, hblk, congrArg some hr⟩

include hblk

/-- The gate reads BLK alone. -/
theorem Alike.unlessFaulted {o o' : StepResult} (hunit : unit (s'.respond (.err 0x0C)) = unit (s.respond (.err 0x0C)))
    (ho : Alike unit o o') : Alike unit (unlessFaulted s o) (unlessFaulted s' o') := by
  cases hf : s.blk.fault with
  | false => rwa [unlessFaulted_of_running hf, unlessFaulted_of_running (hblk ▸ hf)]
  | true =>
    rw [unlessFaulted_of_faulted hf, unlessFaulted_of_faulted (hblk ▸ hf)]
    exact .answer hunit hblk rfl

theorem Alike.progError {e : ErrCode} (hunit : unit (s'.afterProgError e.code) = unit (s.afterProgError e.code)) :
    Alike unit (progError e s) (progError e s') := by
  rw [progError_eq, progError_eq]
  rintro t ⟨⟩
  exact ⟨_, rfl, hunit, by simp only [State.afterProgError, hblk], rfl⟩

theorem Alike.finishFd (out : Fd × Response) : Alike State.fd (finishFd s out) (finishFd s' out) :=
  .answer rfl hblk rfl

theorem Alike.finishEn {en en' : En} (h : en' = en) : Alike State.en (finishEn s en) (finishEn s' en') :=
  .answer h hblk rfl

theorem execCrcClr_alike (hcu : s'.cu = s.cu) : Alike State.cu (execCrcClr s) (execCrcClr s') :=
  .unlessFaulted hblk hcu (.answer rfl hblk rfl)

theorem execCrcByte_alike (d : Byte) (hcu : s'.cu = s.cu) : Alike State.cu (execCrcByte d s) (execCrcByte d s') :=
  .unlessFaulted hblk hcu (.answer (congrArg (engFeed · d) hcu) hblk rfl)

theorem execCrcRead_alike (hcu : s'.cu = s.cu) : Alike State.cu (execCrcRead s) (execCrcRead s') :=
  .unlessFaulted hblk hcu (.answer hcu hblk (by rw [hcu]))

theorem execFrReset_alike (hfd : s'.fd = s.fd) : Alike State.fd (execFrReset s) (execFrReset s') :=
  .unlessFaulted hblk hfd (.finishFd hblk _)

theorem execFrByte_alike (d : Byte) (hcat : s'.catalogue = s.catalogue) (hfd : s'.fd = s.fd) :
    Alike State.fd (execFrByte d s) (execFrByte d s') := by
  refine .unlessFaulted hblk hfd ?_
  rw [hfd, hblk, hcat]
  split
  · exact fun _ h => nomatch h
  · exact .finishFd hblk _

theorem execFrEnd_alike (hfd : s'.fd = s.fd) : Alike State.fd (execFrEnd s) (execFrEnd s') := by
  refine .unlessFaulted hblk hfd ?_
  rw [hfd, hblk]
  split
  · split
    · exact .finishFd hblk _
    · exact fun _ h => nomatch h
  · exact .answer hfd hblk rfl

theorem execRdData_alike (k : Byte) (hfd : s'.fd = s.fd) : Alike State.fd (execRdData k s) (execRdData k s') := by
  unfold execRdData
  split
  · exact .progError hblk hfd
  · exact .answer hfd hblk (by rw [hfd])

/-- An encoder operation with a single path. -/
theorem gatedFinishEn_alike {en en' : En} (hen : s'.en = s.en) (h : en' = en) :
    Alike State.en (unlessFaulted s (finishEn s en)) (unlessFaulted s' (finishEn s' en')) :=
  .unlessFaulted hblk hen (.finishEn hblk h)

theorem execEncSetStx_alike (d : Byte) (hen : s'.en = s.en) :
    Alike State.en (execEncSetStx d s) (execEncSetStx d s') := by
  refine .unlessFaulted hblk hen ?_
  split
  · exact .progError hblk hen
  · exact .finishEn hblk (by rw [hen])

theorem execEncPush_alike (d : Byte) (hen : s'.en = s.en) : Alike State.en (execEncPush d s) (execEncPush d s') := by
  refine .unlessFaulted hblk hen ?_
  rw [hen]
  split
  · exact .progError hblk hen
  · exact .finishEn hblk rfl

theorem execEncGo_alike (hcat : s'.catalogue = s.catalogue) (hen : s'.en = s.en) :
    Alike State.en (execEncGo s) (execEncGo s') :=
  .unlessFaulted hblk hen (.answer hen hblk (by rw [hen, hblk, hcat]))

end Alike

/-- Settles O57: each operation on a unit answers from that unit, BLK and the catalogue. -/
theorem unitsDoNotInterfere : Obligations.UnitsDoNotInterfere := by
  unfold Obligations.UnitsDoNotInterfere
  intro i s s' t hblk hcat h
  cases i with
  | nop | rst | cfgWr | rdReg | classify => trivial
  | crcClr => exact fun hcu => execCrcClr_alike hblk hcu t h
  | crcByte d => exact fun hcu => execCrcByte_alike hblk d hcu t h
  | crcRead => exact fun hcu => execCrcRead_alike hblk hcu t h
  | frReset => exact fun hfd => execFrReset_alike hblk hfd t h
  | frByte d => exact fun hfd => execFrByte_alike hblk d hcat hfd t h
  | frEnd => exact fun hfd => execFrEnd_alike hblk hfd t h
  | rdData k => exact fun hfd => execRdData_alike hblk k hfd t h
  | encClr => exact fun hen => gatedFinishEn_alike hblk hen rfl t h
  | encSetCmd | encSetWake | encSetCrcHi | encSetCrcLo | encSetCrcAuto =>
    exact fun hen => gatedFinishEn_alike hblk hen (by rw [hen]) t h
  | encSetStx d => exact fun hen => execEncSetStx_alike hblk d hen t h
  | encPush d => exact fun hen => execEncPush_alike hblk d hen t h
  | encGo => exact fun hen => execEncGo_alike hblk hcat hen t h

end Sys2Proof.Machine
